-- ==== Sys2Proof/Word.lean ====
section
/-! DEFINITION. The word types of the block (spec/00_scope.md R8; spec/10_state.md R31). -/

namespace Sys2Proof

/-- A data-memory byte, a table entry (`u8`) or a sample; read as `i8` through `BitVec.toInt` (R8, R82). -/
abbrev Byte := BitVec 8

/-- A 32-bit CSR or command word (R30, R110). -/
abbrev Word := BitVec 32

/-- A coefficient as stored: the two's-complement `i16` of R8 and R84. -/
abbrev Coeff := BitVec 16

/-- The 64-bit IEEE 754 binary64 encoding of an `f64` (R8, R43). -/
abbrev F64Bits := BitVec 64

end Sys2Proof
end

