-- ==== Sys2Proof/Config.lean ====
section
/-! DEFINITION. What the spec fixes for every instance of the block (spec/00_scope.md R7), and the FREE VALUES
of the model: constants with no body, which no proof can evaluate (notes/assumptions/5.md). -/

namespace Sys2Proof.Config

/-- KMAX, the largest DCT order GENBASIS accepts (R7, R143). -/
def kMax : Nat := 8

/-- DIM_MAX, the largest width, height or block size a command accepts (R7). -/
def dimMax : Nat := 65535

/-- The luma extent of a macroblock, and the block size luma is padded with inside ENCODE (R7, R258). -/
def mbSize : Nat := 16

/-- The extent of a block, and the block size chroma is padded with inside ENCODE (R7, R258). -/
def blockSize : Nat := 8

/-- What a free value is drawn for, so that draws for different purposes are independent of one another. -/
inductive FreeKind where
  /-- A byte of an output buffer that a host write raced with, or that is computed from a raced byte (R94). -/
  | store
  /-- A coefficient of an ENCODE block computed from a raced sample (R94, R353). -/
  | coeff
  /-- A CSR table window read whose value the spec leaves unspecified (R43, R355). -/
  | window
  /-- Which of old and new a host read of a byte returns while the running command writes it (R94). -/
  | hostByte
  /-- Which of old and new a byte of an aborted command's output holds after reset (R341). -/
  | abort
deriving DecidableEq, Repr

/-- FREE VALUE: 32 bits the spec leaves unspecified, drawn for a purpose, at the draw number State holds, for
an index (an address or a position). No body: nothing can be proved of it. -/
opaque free : FreeKind → Nat → Nat → Word

/-- FREE VALUE: the integer `floor` gives on a binary64 NaN. R10 states `floor` on numbers only, and R170 says
that the transform never meets a NaN. -/
opaque floorOfNaN : Int

/-- FREE VALUE: the integer `floor` gives on an infinity (the argument says whether it is negative). R170 says
that the transform never meets one. -/
opaque floorOfInf : Bool → Int

end Sys2Proof.Config
end

