-- ==== Sys2Proof/Syntax.lean ====
section
/-! DEFINITION. The commands of the block: one constructor per row of spec/opcode_table.json
(spec/30_encoding.md R112, R116). -/

namespace Sys2Proof

/-- A command. The operands of GENBASIS and QSCALE are what R114 assembles from the A field, `zext_32(A)`;
every other operand is an argument CSR, or a flag that the row's own A value fixes (notes/assumptions/19.md). -/
inductive Instr where
  /-- `GENBASIS n` (R141): build the kernel of order `n`. -/
  | genbasis (n : Nat)
  /-- `XFORM` (R160), the plain variant (L = 0). -/
  | xform
  /-- `XFORM.LS` (R160), the level-shifted variant (L = 1). -/
  | xformLs
  /-- `QSCALE b` (R184): scale one base value. -/
  | qscale (base : Nat)
  /-- `QTBUILD` (R185): build the four quantization tables. -/
  | qtbuild
  /-- `QUANT.Y` (R190): quantize by the luminance table (S = 0). -/
  | quantY
  /-- `QUANT.C` (R190): quantize by the chrominance table (S = 1). -/
  | quantC
  /-- `ZIGZAG` (R212) with B = T = 0. -/
  | zigzag
  /-- `ZIGZAG.B` (R212): reorder the block. -/
  | zigzagB
  /-- `ZIGZAG.T` (R212): reorder the table. -/
  | zigzagT
  /-- `ZIGZAG.BT` (R212): reorder both. -/
  | zigzagBT
  /-- `EXTEND` (R227): pad a plane by edge replication. -/
  | extend
  /-- `CROP` (R232): copy the top-left region of a plane. -/
  | crop
  /-- `ENCODE` (R252): one encoding pass. -/
  | encode
deriving DecidableEq, Repr

end Sys2Proof
end

