-- ==== Sys2Proof/WellFormed.lean ====
section
/-! DEFINITION. Which commands have an encoding, and which of those the assembler writes
(spec/30_encoding.md R114 to R116). -/

namespace Sys2Proof

/-- A command has a word exactly when its operand fits the 8-bit A field (R110, R114). `GENBASIS n` with
`n = 0` or `n > 8` IS well-formed: it ends with BAD_ARG when it runs (R115). -/
def Instr.wellFormed : Instr → Bool
  | .genbasis n => decide (n < 256)
  | .qscale b => decide (b < 256)
  | .xform | .xformLs | .qtbuild | .quantY | .quantC | .zigzag | .zigzagB | .zigzagT | .zigzagBT
  | .extend | .crop | .encode => true

/-- A command is well-formed. -/
abbrev Instr.WellFormed (i : Instr) : Prop := i.wellFormed = true

/-- What the assembler of R116 accepts: it also refuses `GENBASIS n` with `n` outside 1..8. -/
def Instr.assembles : Instr → Bool
  | .genbasis n => decide (1 ≤ n ∧ n ≤ Config.kMax)
  | .qscale b => decide (b < 256)
  | .xform | .xformLs | .qtbuild | .quantY | .quantC | .zigzag | .zigzagB | .zigzagT | .zigzagBT
  | .extend | .crop | .encode => true

end Sys2Proof
end

