-- ==== Sys2Proof/Decode.lean ====
section
/-! DEFINITION. Decoding of a command word, total on every word and rejecting by name, then the encoder
(spec/30_encoding.md R110 to R116; spec/opcode_table.json). -/

namespace Sys2Proof

/-- Why a command word is illegal (R115). -/
inductive Illegal where
  /-- RSV (bits 31:16) is not 0. -/
  | reservedField
  /-- OP is 0x00 or in 0x0A..0xFF. -/
  | unknownOpcode
  /-- A bit of A that the opcode reserves is set. -/
  | reservedOperandBits
deriving DecidableEq, Repr

/-- OP, bits 7:0 of a command word (R110). -/
def opField (w : Word) : Byte := w.extractLsb' 0 8

/-- A, bits 15:8 of a command word (R110). -/
def aField (w : Word) : Byte := w.extractLsb' 8 8

/-- RSV, bits 31:16 of a command word (R110). -/
def rsvField (w : Word) : BitVec 16 := w.extractLsb' 16 16

/-- The command that OP and A name once RSV is known to be 0 (R112, R115). -/
def decodeOp (op a : Nat) : Except Illegal Instr :=
  match op with
  | 0x01 => .ok (.genbasis a)
  | 0x02 => match a with | 0 => .ok .xform | 1 => .ok .xformLs | _ => .error .reservedOperandBits
  | 0x03 => .ok (.qscale a)
  | 0x04 => match a with | 0 => .ok .qtbuild | _ => .error .reservedOperandBits
  | 0x05 => match a with | 0 => .ok .quantY | 1 => .ok .quantC | _ => .error .reservedOperandBits
  | 0x06 => match a with
    | 0 => .ok .zigzag | 1 => .ok .zigzagB | 2 => .ok .zigzagT | 3 => .ok .zigzagBT
    | _ => .error .reservedOperandBits
  | 0x07 => match a with | 0 => .ok .extend | _ => .error .reservedOperandBits
  | 0x08 => match a with | 0 => .ok .crop | _ => .error .reservedOperandBits
  | 0x09 => match a with | 0 => .ok .encode | _ => .error .reservedOperandBits
  | _ => .error .unknownOpcode

/-- Decode a command word (R110, R112, R115, R306). -/
def decode (w : Word) : Except Illegal Instr :=
  if rsvField w = 0 then decodeOp (opField w).toNat (aField w).toNat else .error .reservedField

/-- A command word from its OP and A, with RSV = 0 (R110): `{0, A, OP}`. -/
def assemble (op a : Byte) : Word := 0#16 ++ (a ++ op)

/-- The word of a command (R116). -/
def encode : Instr → Word
  | .genbasis n => assemble 0x01#8 (BitVec.ofNat 8 n)
  | .xform => assemble 0x02#8 0x00#8
  | .xformLs => assemble 0x02#8 0x01#8
  | .qscale b => assemble 0x03#8 (BitVec.ofNat 8 b)
  | .qtbuild => assemble 0x04#8 0x00#8
  | .quantY => assemble 0x05#8 0x00#8
  | .quantC => assemble 0x05#8 0x01#8
  | .zigzag => assemble 0x06#8 0x00#8
  | .zigzagB => assemble 0x06#8 0x01#8
  | .zigzagT => assemble 0x06#8 0x02#8
  | .zigzagBT => assemble 0x06#8 0x03#8
  | .extend => assemble 0x07#8 0x00#8
  | .crop => assemble 0x08#8 0x00#8
  | .encode => assemble 0x09#8 0x00#8

/-- The command word that the low `nbits` bits of `w` are, every higher bit 0. A command is one 32-bit word
and never longer (R111). -/
def tableWord (nbits w : Nat) : Word := BitVec.ofNat 32 (w % 2 ^ nbits)

/-- What the decoder reads from an opcode-table row's bits, bit 0 the least significant bit of the word.
Bits above the 32 of a command word (R111) make it no command. -/
def decodeTableWord (nbits w : Nat) : Option Instr :=
  if w % 2 ^ nbits < 2 ^ 32 then (decode (tableWord nbits w)).toOption else none

end Sys2Proof
end

