-- ==== Sys2Proof/Machine/Tables.lean ====
section
/-! DEFINITION. The constant tables and values of the block: ID and VERSION (spec/10_state.md R32), the default
base tables (spec/42_quantization.md R181), the zigzag permutation (spec/43_zigzag.md R210) and the kernel values
of every order (spec/40_dct_basis.md R146). -/

namespace Sys2Proof.Machine

/-- ID reads 0x44435442, the ASCII bytes "DCTB" (R32). -/
def idValue : Word := 0x44435442#32

/-- VERSION reads 1 (R32). -/
def versionValue : Word := 0x00000001#32

/-- The entries of the default BASE_LUMA, natural row-major order, one row of the table a line (R181). -/
def defaultLumaEntries : List Nat :=
  [16, 11, 10, 16, 24, 40, 51, 61]
   ++ [12, 12, 14, 19, 26, 58, 60, 55]
   ++ [14, 13, 16, 24, 40, 57, 69, 56]
   ++ [14, 17, 22, 29, 51, 87, 80, 62]
   ++ [18, 22, 37, 56, 68, 109, 103, 77]
   ++ [24, 35, 55, 64, 81, 104, 113, 92]
   ++ [49, 64, 78, 87, 103, 121, 120, 101]
   ++ [72, 92, 95, 98, 112, 100, 103, 99]

/-- The entries of the default BASE_CHROMA (R181). -/
def defaultChromaEntries : List Nat :=
  [17, 18, 24, 47, 99, 99, 99, 99]
   ++ [18, 21, 26, 66, 99, 99, 99, 99]
   ++ [24, 26, 56, 99, 99, 99, 99, 99]
   ++ [47, 66, 99, 99, 99, 99, 99, 99]
   ++ [99, 99, 99, 99, 99, 99, 99, 99]
   ++ [99, 99, 99, 99, 99, 99, 99, 99]
   ++ [99, 99, 99, 99, 99, 99, 99, 99]
   ++ [99, 99, 99, 99, 99, 99, 99, 99]

/-- A 64-byte table from its listed entries. -/
def byteTable (entries : List Nat) : Vector Byte 64 := Vector.ofFn fun k => BitVec.ofNat 8 (entries.getD k.val 0)

/-- The default of the parameter BASE_LUMA (R181; PRESUMED by the spec itself, notes/assumptions/3.md). -/
def defaultBaseLuma : Vector Byte 64 := byteTable defaultLumaEntries

/-- The default of the parameter BASE_CHROMA (R181; PRESUMED by the spec itself, notes/assumptions/3.md). -/
def defaultBaseChroma : Vector Byte 64 := byteTable defaultChromaEntries

/-- The natural index visited at each scan position, positions 8s to 8s+7 a line (R210; notes/assumptions/15.md). -/
def zigzagEntries : List Nat :=
  [0, 1, 8, 16, 9, 2, 3, 10]
   ++ [17, 24, 32, 25, 18, 11, 4, 5]
   ++ [12, 19, 26, 33, 40, 48, 41, 34]
   ++ [27, 20, 13, 6, 7, 14, 21, 28]
   ++ [35, 42, 49, 56, 57, 50, 43, 36]
   ++ [29, 22, 15, 23, 30, 37, 44, 51]
   ++ [58, 59, 52, 45, 38, 31, 39, 46]
   ++ [53, 60, 61, 54, 47, 55, 62, 63]

/-- `ZZ[i]`, the zigzag permutation: scan position to natural position (R210). -/
def ZZ (i : Nat) : Nat := zigzagEntries.getD i 0

/-- The rows `KVAL(1, i, 0..0)`, i = 0..0, as binary64 encodings (R146). -/
def kernelRows1 : List (List F64Bits) :=
  [[0x3FF0000000000000#64]]

/-- The rows `KVAL(2, i, 0..1)`, i = 0..1, as binary64 encodings (R146). -/
def kernelRows2 : List (List F64Bits) :=
  [[0x3FE6A09E667F3BCD#64, 0x3FE6A09E667F3BCD#64]]
   ++ [[0x3FE6A09E667F3BCD#64, 0xBFE6A09E667F3BCD#64]]

/-- The rows `KVAL(3, i, 0..2)`, i = 0..2, as binary64 encodings (R146). -/
def kernelRows3 : List (List F64Bits) :=
  [[0x3FE279A74590331C#64, 0x3FE279A74590331C#64, 0x3FE279A74590331C#64]]
   ++ [[0x3FE6A09E667F3BCD#64, 0x0000000000000000#64, 0xBFE6A09E667F3BCD#64]]
   ++ [[0x3FDA20BD700C2C3E#64, 0xBFEA20BD700C2C3E#64, 0x3FDA20BD700C2C3E#64]]

/-- The rows `KVAL(4, i, 0..3)`, i = 0..3, as binary64 encodings (R146). -/
def kernelRows4 : List (List F64Bits) :=
  [[0x3FE0000000000000#64, 0x3FE0000000000000#64, 0x3FE0000000000000#64, 0x3FE0000000000000#64]]
   ++ [[0x3FE4E7AE9144F0FC#64, 0x3FD1517A7BDB3895#64, 0xBFD1517A7BDB3895#64, 0xBFE4E7AE9144F0FC#64]]
   ++ [[0x3FE0000000000000#64, 0xBFE0000000000000#64, 0xBFE0000000000000#64, 0x3FE0000000000000#64]]
   ++ [[0x3FD1517A7BDB3895#64, 0xBFE4E7AE9144F0FC#64, 0x3FE4E7AE9144F0FC#64, 0xBFD1517A7BDB3895#64]]

/-- The rows `KVAL(5, i, 0..4)`, i = 0..4, as binary64 encodings (R146). -/
def kernelRows5 : List (List F64Bits) :=
  [[0x3FDC9F25C5BFEDD9#64, 0x3FDC9F25C5BFEDD9#64, 0x3FDC9F25C5BFEDD9#64, 0x3FDC9F25C5BFEDD9#64,
      0x3FDC9F25C5BFEDD9#64]]
   ++ [[0x3FE33F7EEE48A548#64, 0x3FD7CAB84496F625#64, 0x0000000000000000#64, 0xBFD7CAB84496F625#64,
      0xBFE33F7EEE48A548#64]]
   ++ [[0x3FE05F940BD1B02A#64, 0xBFC904296AB62E8A#64, 0xBFE43D136248490F#64, 0xBFC904296AB62E8A#64,
      0x3FE05F940BD1B02A#64]]
   ++ [[0x3FD7CAB84496F625#64, 0xBFE33F7EEE48A548#64, 0x0000000000000000#64, 0x3FE33F7EEE48A548#64,
      0xBFD7CAB84496F625#64]]
   ++ [[0x3FC904296AB62E8A#64, 0xBFE05F940BD1B02A#64, 0x3FE43D136248490F#64, 0xBFE05F940BD1B02A#64,
      0x3FC904296AB62E8A#64]]

/-- The rows `KVAL(6, i, 0..5)`, i = 0..5, as binary64 encodings (R146). -/
def kernelRows6 : List (List F64Bits) :=
  [[0x3FDA20BD700C2C3E#64, 0x3FDA20BD700C2C3E#64, 0x3FDA20BD700C2C3E#64, 0x3FDA20BD700C2C3E#64,
      0x3FDA20BD700C2C3E#64, 0x3FDA20BD700C2C3E#64]]
   ++ [[0x3FE1D87E8F42A8F6#64, 0x3FDA20BD700C2C3E#64, 0x3FC3207F5CF24B5B#64, 0xBFC3207F5CF24B5B#64,
      0xBFDA20BD700C2C3E#64, 0xBFE1D87E8F42A8F6#64]]
   ++ [[0x3FE0000000000000#64, 0x0000000000000000#64, 0xBFE0000000000000#64, 0xBFE0000000000000#64,
      0x0000000000000000#64, 0x3FE0000000000000#64]]
   ++ [[0x3FDA20BD700C2C3E#64, 0xBFDA20BD700C2C3E#64, 0xBFDA20BD700C2C3E#64, 0x3FDA20BD700C2C3E#64,
      0x3FDA20BD700C2C3E#64, 0xBFDA20BD700C2C3E#64]]
   ++ [[0x3FD279A74590331C#64, 0xBFE279A74590331C#64, 0x3FD279A74590331C#64, 0x3FD279A74590331C#64,
      0xBFE279A74590331C#64, 0x3FD279A74590331C#64]]
   ++ [[0x3FC3207F5CF24B5B#64, 0xBFDA20BD700C2C3E#64, 0x3FE1D87E8F42A8F6#64, 0xBFE1D87E8F42A8F6#64,
      0x3FDA20BD700C2C3E#64, 0xBFC3207F5CF24B5B#64]]

/-- The rows `KVAL(7, i, 0..6)`, i = 0..6, as binary64 encodings (R146). -/
def kernelRows7 : List (List F64Bits) :=
  [[0x3FD83091E6A7F7E7#64, 0x3FD83091E6A7F7E7#64, 0x3FD83091E6A7F7E7#64, 0x3FD83091E6A7F7E7#64,
      0x3FD83091E6A7F7E7#64, 0x3FD83091E6A7F7E7#64, 0x3FD83091E6A7F7E7#64]]
   ++ [[0x3FE0AD05B707DE46#64, 0x3FDABEFAEDF36B00#64, 0x3FCDAF931E095FE5#64, 0x0000000000000000#64,
      0xBFCDAF931E095FE5#64, 0xBFDABEFAEDF36B00#64, 0xBFE0AD05B707DE46#64]]
   ++ [[0x3FDED256F74B109C#64, 0x3FBE73030BE067C0#64, 0xBFD55448D4E30663#64, 0xBFE11ACEE560242A#64,
      0xBFD55448D4E30663#64, 0x3FBE73030BE067C0#64, 0x3FDED256F74B109C#64]]
   ++ [[0x3FDABEFAEDF36B00#64, 0xBFCDAF931E095FE5#64, 0xBFE0AD05B707DE46#64, 0x0000000000000000#64,
      0x3FE0AD05B707DE46#64, 0x3FCDAF931E095FE5#64, 0xBFDABEFAEDF36B00#64]]
   ++ [[0x3FD55448D4E30663#64, 0xBFDED256F74B109C#64, 0xBFBE73030BE067C0#64, 0x3FE11ACEE560242A#64,
      0xBFBE73030BE067C0#64, 0xBFDED256F74B109C#64, 0x3FD55448D4E30663#64]]
   ++ [[0x3FCDAF931E095FE5#64, 0xBFE0AD05B707DE46#64, 0x3FDABEFAEDF36B00#64, 0x0000000000000000#64,
      0xBFDABEFAEDF36B00#64, 0x3FE0AD05B707DE46#64, 0xBFCDAF931E095FE5#64]]
   ++ [[0x3FBE73030BE067C0#64, 0xBFD55448D4E30663#64, 0x3FDED256F74B109C#64, 0xBFE11ACEE560242A#64,
      0x3FDED256F74B109C#64, 0xBFD55448D4E30663#64, 0x3FBE73030BE067C0#64]]

/-- The rows `KVAL(8, i, 0..7)`, i = 0..7, as binary64 encodings (R146). -/
def kernelRows8 : List (List F64Bits) :=
  [[0x3FD6A09E667F3BCD#64, 0x3FD6A09E667F3BCD#64, 0x3FD6A09E667F3BCD#64, 0x3FD6A09E667F3BCD#64,
      0x3FD6A09E667F3BCD#64, 0x3FD6A09E667F3BCD#64, 0x3FD6A09E667F3BCD#64, 0x3FD6A09E667F3BCD#64]]
   ++ [[0x3FDF6297CFF75CB0#64, 0x3FDA9B66290EA1A3#64, 0x3FD1C73B39AE68C8#64, 0x3FB8F8B83C69A60B#64,
      0xBFB8F8B83C69A60B#64, 0xBFD1C73B39AE68C8#64, 0xBFDA9B66290EA1A3#64, 0xBFDF6297CFF75CB0#64]]
   ++ [[0x3FDD906BCF328D46#64, 0x3FC87DE2A6AEA963#64, 0xBFC87DE2A6AEA963#64, 0xBFDD906BCF328D46#64,
      0xBFDD906BCF328D46#64, 0xBFC87DE2A6AEA963#64, 0x3FC87DE2A6AEA963#64, 0x3FDD906BCF328D46#64]]
   ++ [[0x3FDA9B66290EA1A3#64, 0xBFB8F8B83C69A60B#64, 0xBFDF6297CFF75CB0#64, 0xBFD1C73B39AE68C8#64,
      0x3FD1C73B39AE68C8#64, 0x3FDF6297CFF75CB0#64, 0x3FB8F8B83C69A60B#64, 0xBFDA9B66290EA1A3#64]]
   ++ [[0x3FD6A09E667F3BCD#64, 0xBFD6A09E667F3BCD#64, 0xBFD6A09E667F3BCD#64, 0x3FD6A09E667F3BCD#64,
      0x3FD6A09E667F3BCD#64, 0xBFD6A09E667F3BCD#64, 0xBFD6A09E667F3BCD#64, 0x3FD6A09E667F3BCD#64]]
   ++ [[0x3FD1C73B39AE68C8#64, 0xBFDF6297CFF75CB0#64, 0x3FB8F8B83C69A60B#64, 0x3FDA9B66290EA1A3#64,
      0xBFDA9B66290EA1A3#64, 0xBFB8F8B83C69A60B#64, 0x3FDF6297CFF75CB0#64, 0xBFD1C73B39AE68C8#64]]
   ++ [[0x3FC87DE2A6AEA963#64, 0xBFDD906BCF328D46#64, 0x3FDD906BCF328D46#64, 0xBFC87DE2A6AEA963#64,
      0xBFC87DE2A6AEA963#64, 0x3FDD906BCF328D46#64, 0xBFDD906BCF328D46#64, 0x3FC87DE2A6AEA963#64]]
   ++ [[0x3FB8F8B83C69A60B#64, 0xBFD1C73B39AE68C8#64, 0x3FDA9B66290EA1A3#64, 0xBFDF6297CFF75CB0#64,
      0x3FDF6297CFF75CB0#64, 0xBFDA9B66290EA1A3#64, 0x3FD1C73B39AE68C8#64, 0xBFB8F8B83C69A60B#64]]

/-- The kernel rows of an order; none outside 1..8 (R143). -/
def kernelRows (n : Nat) : List (List F64Bits) :=
  match n with
  | 1 => kernelRows1 | 2 => kernelRows2 | 3 => kernelRows3 | 4 => kernelRows4
  | 5 => kernelRows5 | 6 => kernelRows6 | 7 => kernelRows7 | 8 => kernelRows8
  | _ => []

/-- `KVAL(N, i, j)`: the stored binary64 value of the order-`n` kernel's entry (R142, R146). -/
def kval (n i j : Nat) : F64Bits := ((kernelRows n).getD i []).getD j 0#64

/-- The 8x8 KERNEL array of order `n`, entry (i, j) at 8i+j: `KVAL` in the top-left n×n corner and +0.0 in every
other entry (R41, R141). -/
def kernelOf (n : Nat) : Vector F64Bits 64 :=
  Vector.ofFn fun k => if k.val / 8 < n ∧ k.val % 8 < n then kval n (k.val / 8) (k.val % 8) else 0#64

end Sys2Proof.Machine
end

