-- ==== Sys2Proof/Machine/State.lean ====
section
/-! DEFINITION. The state of the block and of the agents around it, as plain data (spec/10_state.md R30 to R48,
spec/20_memory.md R80, spec/45_macroblock_sequencer.md R251, R262), and the state after reset (R48, R340). -/

namespace Sys2Proof.Machine

/-- The parameters a model takes as named arguments (R7, R181). They are fixed for one block: no step changes
them. They stand in State because the step takes nothing but a state (notes/assumptions/2.md). -/
structure Params where
  /-- `MEM_SIZE`: bytes of data memory, OPEN, 1 to 2^32 (R7, R80). -/
  memSize : Nat
  /-- `CSR_BASE`: platform address of the CSR window, OPEN; no rule depends on it (R7). -/
  csrBase : Nat
  /-- `IRQ_LINE`: the interrupt-controller input IRQ reaches, OPEN; no rule depends on it (R7). -/
  irqLine : Nat
  /-- `BASE_LUMA`, natural order (R45, R181). -/
  baseLuma : Vector Byte 64
  /-- `BASE_CHROMA`, natural order (R45, R181). -/
  baseChroma : Vector Byte 64
deriving DecidableEq, Repr

/-- The range R7 gives MEM_SIZE. -/
abbrev Params.wf (p : Params) : Prop := 1 ≤ p.memSize ∧ p.memSize ≤ 2 ^ 32

/-- The parameters of `State.reset`: the default base tables of R181, and the MEM_SIZE that spec/95_test_vectors.md
assumes. DESIGN CHOICE (notes/assumptions/2.md); `State.resetWith` takes any other. -/
def Params.default : Params :=
  { memSize := 0x10000, csrBase := 0, irqLine := 0, baseLuma := defaultBaseLuma, baseChroma := defaultBaseChroma }

/-- Data memory (R80): the listed bytes, addresses strictly rising. -/
abbrev Memory := List Host.Cell

/-- What an unlisted address reads as. DESIGN CHOICE: the spec gives data memory no power-on contents
(notes/assumptions/4.md). -/
def unlistedByte : Byte := 0#8

/-- The canonical form of data memory: addresses strictly rising, no entry equal to what an unlisted address
reads as. -/
abbrev Memory.wf (m : Memory) : Prop := m.Pairwise (fun c d => c.1 < d.1) ∧ ∀ c ∈ m, c.2 ≠ unlistedByte

/-- The argument CSRs (R37), and the private copy latched at acceptance (R44). -/
structure Args where
  /-- First source address. -/
  src0 : Word
  /-- Second source address. -/
  src1 : Word
  /-- Third source address. -/
  src2 : Word
  /-- Destination address. -/
  dst : Word
  /-- Destination capacity in bytes. -/
  dstlen : Word
  /-- Width in samples. -/
  width : Word
  /-- Height in samples. -/
  height : Word
  /-- Quality, read as `i32`. -/
  quality : Word
  /-- Border-extension block size N. -/
  bsize : Word
  /-- Crop width. -/
  neww : Word
  /-- Crop height. -/
  newh : Word
deriving DecidableEq, Repr

/-- Every argument CSR 0. -/
def Args.zero : Args :=
  { src0 := 0, src1 := 0, src2 := 0, dst := 0, dstlen := 0, width := 0, height := 0, quality := 0, bsize := 0,
    neww := 0, newh := 0 }

/-- The error codes STATUS.ERRCODE reports (R300); codes 8 to 15 are never reported. -/
inductive ErrorCode where
  /-- 0 NONE. -/
  | noError
  /-- 1 ILLEGAL_CMD: the command word is illegal (R115). -/
  | illegalCmd
  /-- 2 BAD_ARG: an argument is outside its legal range. -/
  | badArg
  /-- 3 NO_KERNEL: XFORM while KVALID = 0. -/
  | noKernel
  /-- 4 NO_QTABLE: QUANT while QVALID = 0. -/
  | noQtable
  /-- 5 ADDR_RANGE: a buffer is out of data memory, or EXTEND's output is larger than DSTLEN. -/
  | addrRange
  /-- 6 OVERLAP: an input and an output buffer overlap. -/
  | overlap
  /-- 7 WRITER_FAIL: the sink answered FAIL. -/
  | writerFail
deriving DecidableEq, Repr

/-- A plane: `width * height` samples, row-major, no stride (R14, R82). -/
structure Plane where
  /-- Samples in a row. -/
  width : Nat
  /-- Rows. -/
  height : Nat
  /-- Sample (x, y) at position `y * width + x`. -/
  samples : List Byte
deriving DecidableEq, Repr

/-- A writer event with its payload (R262). -/
inductive WriterEvent where
  /-- Kind 0. -/
  | header
  /-- Kind 1: the zigzag copies of the two tables. -/
  | qtables (zl zc : Vector Byte 64)
  /-- Kind 2: the original width and height, two `u16`. -/
  | imageInfo (width height : BitVec 16)
  /-- Kind 3. -/
  | huffman
  /-- Kind 4: 64 `i16` in zigzag order. -/
  | blockY (coeffs : Vector Coeff 64)
  /-- Kind 5. -/
  | blockU (coeffs : Vector Coeff 64)
  /-- Kind 6. -/
  | blockV (coeffs : Vector Coeff 64)
  /-- Kind 7. -/
  | finish
deriving DecidableEq, Repr

/-- The phase of an ENCODE pass (R251). -/
inductive Phase where
  | tables
  | hdrEvents
  | prepare
  | kernelBuild
  | blocks
  | finishing
deriving DecidableEq, Repr

/-- The sequencer state held while an ENCODE runs (R46, R251). -/
structure Sequencer where
  /-- The phase. -/
  phase : Phase
  /-- The model's own count of the header events accepted, 0..3: how far HDR_EVENTS has come (R255). -/
  hdr : Nat
  /-- Padded luma width Wp. -/
  wp : Nat
  /-- Padded luma height Hp. -/
  hp : Nat
  /-- Padded chroma width cWp. -/
  cwp : Nat
  /-- Padded chroma height cHp. -/
  chp : Nat
  /-- Macroblock columns MBW. -/
  mbw : Nat
  /-- Macroblock rows MBH. -/
  mbh : Nat
  /-- Macroblock column mx. -/
  mx : Nat
  /-- Macroblock row my. -/
  my : Nat
  /-- Event index e in the macroblock: 0 to 3 the Y sub-blocks, 4 U, 5 V. -/
  e : Nat
  /-- The writer event offered and not yet answered (R270). -/
  pending : Option WriterEvent
  /-- The level-shifted luma plane Ys (R257). -/
  ys : Plane
  /-- The padded planes Yp, Up and Vp (R258). -/
  yp : Plane
  up : Plane
  vp : Plane
deriving DecidableEq, Repr

/-- A host bus access (R4, R30, R80): to the CSR window at an offset with a width in bytes, or to one byte of
data memory (notes/assumptions/18.md). -/
inductive HostAccess where
  | csrRead (off : BitVec 12) (bytes : Nat)
  | csrWrite (off : BitVec 12) (bytes : Nat) (v : Word)
  | memRead (addr : Nat)
  | memWrite (addr : Nat) (v : Byte)
deriving DecidableEq, Repr

/-- The sink's answer to an offered event (R270). -/
inductive Answer where
  | accept
  | fail
deriving DecidableEq, Repr

/-- One indivisible step of one agent (R322): a host access, an answer of the sink, the reset input, or a step of
the core. -/
inductive Move where
  | host (a : HostAccess)
  | sink (a : Answer)
  | reset
  | core
deriving DecidableEq, Repr

/-- The machine: the block's registers, tables and hidden state, data memory, and the agents around the block. -/
structure State where
  /-- The parameters (R7). -/
  params : Params
  /-- CMD: the last accepted command word (R33). -/
  cmd : Word
  /-- STATUS.BUSY (R34), the hidden `busy` (R46). -/
  busy : Bool
  /-- STATUS.DONE (R34). -/
  done : Bool
  /-- STATUS.ERR (R34). -/
  err : Bool
  /-- STATUS.OVR (R34). -/
  ovr : Bool
  /-- STATUS.ERRCODE (R34, R300). -/
  errCode : ErrorCode
  /-- STATUS.KVALID (R34). -/
  kvalid : Bool
  /-- STATUS.QVALID (R34). -/
  qvalid : Bool
  /-- IEN.DONE_IE (R36). -/
  doneIe : Bool
  /-- The argument CSRs SRC0 to NEWH (R37). -/
  csr : Args
  /-- RESULT0 (R38). -/
  result0 : Word
  /-- RESULT1 (R38). -/
  result1 : Word
  /-- MBCOUNT (R39). -/
  mbCount : Word
  /-- BLKCOUNT (R39). -/
  blkCount : Word
  /-- KORDER (R40). -/
  korder : Word
  /-- QT_LUMA, natural order (R42). -/
  qtLuma : Vector Byte 64
  /-- QT_CHROMA, natural order (R42). -/
  qtChroma : Vector Byte 64
  /-- QTZ_LUMA, zigzag order (R42). -/
  qtzLuma : Vector Byte 64
  /-- QTZ_CHROMA, zigzag order (R42). -/
  qtzChroma : Vector Byte 64
  /-- KERNEL, entry (i, j) at 8i+j, binary64 encodings (R41). -/
  kernel : Vector F64Bits 64
  /-- The hidden `op` of the accepted command (R46). -/
  op : Byte
  /-- The hidden `arg` of the accepted command (R46). -/
  arg : Byte
  /-- The latched argument set `a.*` (R44). -/
  latched : Args
  /-- The sequencer state; held only while an ENCODE pass runs (R251; notes/assumptions/17.md). -/
  seq : Option Sequencer
  /-- Data memory (R80). -/
  mem : Memory
  /-- The model's own: the steps the agents take next, oldest first (R322); with none listed, the core steps
  (notes/assumptions/14.md). -/
  moves : List Move
  /-- The model's own: every writer event the core has offered, oldest first, as the sink saw them (R4, R269). -/
  stream : List WriterEvent
  /-- The model's own: what the host's last read returned (R4). -/
  hostData : Word
  /-- The model's own: the data-memory addresses the host wrote while the running command was busy (R94). -/
  raced : List Nat
  /-- The model's own: how many free values have been drawn (notes/assumptions/5.md). -/
  draws : Nat
deriving DecidableEq, Repr

/-- The state after reset for given parameters (R31, R48, R340): every CSR at its reset value, data memory with
nothing listed. The tables, the latched arguments, `op` and `arg` have no stated reset value and are 0 here:
DESIGN CHOICE (notes/assumptions/6.md). -/
def State.resetWith (p : Params) : State :=
  { params := p, cmd := 0, busy := false, done := false, err := false, ovr := false, errCode := .noError,
    kvalid := false, qvalid := false, doneIe := false, csr := Args.zero, result0 := 0, result1 := 0, mbCount := 0,
    blkCount := 0, korder := 0, qtLuma := Vector.ofFn fun _ => 0, qtChroma := Vector.ofFn fun _ => 0,
    qtzLuma := Vector.ofFn fun _ => 0, qtzChroma := Vector.ofFn fun _ => 0, kernel := Vector.ofFn fun _ => 0,
    op := 0, arg := 0, latched := Args.zero, seq := none, mem := [], moves := [], stream := [], hostData := 0,
    raced := [], draws := 0 }

/-- The machine right after reset (R48, R340). -/
def State.reset : State := State.resetWith Params.default

/-- Why a step stops. No command's meaning raises one: both are accesses that an agent outside the block cannot
make, or whose effect the spec does not give (notes/assumptions/7.md). -/
inductive Fault where
  /-- Raised by a host access to data memory at an address R80 says does not exist (MEM_SIZE or above). Safe. -/
  | hostAddressOutsideMemory (addr : Nat)
  /-- Raised by an answer of the sink while no event is offered, which R270 gives the sink no way to make. Safe. -/
  | answerWithoutEvent
deriving DecidableEq, Repr

/-- Why a command has no meaning. -/
inductive Refusal where
  /-- Raised by exec alone, for a command not modelled yet; no arm raises it. Safe. -/
  | notModelled (mnemonic : String)
deriving DecidableEq, Repr

/-- What a step or a meaning answers. -/
abbrev Out := Host.Outcome State Fault Refusal

end Sys2Proof.Machine
end

