-- ==== Sys2Proof/Machine/Flags.lean ====
section
/-! DEFINITION. STATUS as software reads and writes it, the error codes, and the interrupt output
(spec/10_state.md R34 to R36; spec/60_exceptions.md R300, R320). -/

namespace Sys2Proof.Machine

/-- The code STATUS.ERRCODE reports (R300). -/
def ErrorCode.code : ErrorCode → BitVec 4
  | .noError => 0 | .illegalCmd => 1 | .badArg => 2 | .noKernel => 3 | .noQtable => 4 | .addrRange => 5
  | .overlap => 6 | .writerFail => 7

/-- STATUS as read: bit 9 QVALID, 8 KVALID, 7:4 ERRCODE, 3 OVR, 2 ERR, 1 DONE, 0 BUSY, the rest 0 (R34). -/
def statusWord (s : State) : Word :=
  0#22 ++ (BitVec.ofBool s.qvalid ++ (BitVec.ofBool s.kvalid ++ (s.errCode.code ++ (BitVec.ofBool s.ovr ++
    (BitVec.ofBool s.err ++ (BitVec.ofBool s.done ++ BitVec.ofBool s.busy))))))

/-- A write to STATUS: a 1 in bit 1 clears DONE, a 1 in bit 3 clears OVR, and nothing else is writable (R35). -/
def writeStatus (v : Word) (s : State) : State :=
  { s with done := s.done && !v.getLsbD 1, ovr := s.ovr && !v.getLsbD 3 }

/-- IEN as read: bit 0 DONE_IE, the rest 0 (R36). -/
def ienWord (s : State) : Word := 0#31 ++ BitVec.ofBool s.doneIe

/-- A write to IEN stores bit 0 (R36). -/
def writeIen (v : Word) (s : State) : State := { s with doneIe := v.getLsbD 0 }

/-- The interrupt output, a level: `STATUS.DONE AND IEN.DONE_IE` (R36, R320). -/
def irq (s : State) : Bool := s.done && s.doneIe

end Sys2Proof.Machine
end

