-- ==== Sys2Proof/Machine/Operands.lean ====
section
/-! DEFINITION. The operand forms of the commands (spec/30_encoding.md R113, R114; spec/10_state.md R37, R44;
spec/20_memory.md R82 to R89; spec/00_scope.md R16): every wide operand is a latched argument. -/

namespace Sys2Proof.Machine

/-- `a.SRC0` as an unsigned byte address (R37, R44). -/
def aSrc0 (s : State) : Nat := s.latched.src0.toNat
/-- `a.SRC1`. -/
def aSrc1 (s : State) : Nat := s.latched.src1.toNat
/-- `a.SRC2`. -/
def aSrc2 (s : State) : Nat := s.latched.src2.toNat
/-- `a.DST`. -/
def aDst (s : State) : Nat := s.latched.dst.toNat
/-- `a.DSTLEN` as an unsigned byte count. -/
def aDstlen (s : State) : Nat := s.latched.dstlen.toNat
/-- `a.WIDTH` as an unsigned integer. -/
def aWidth (s : State) : Nat := s.latched.width.toNat
/-- `a.HEIGHT`. -/
def aHeight (s : State) : Nat := s.latched.height.toNat
/-- `a.QUALITY` as a two's-complement `i32` (R37). -/
def aQuality (s : State) : Int := s.latched.quality.toInt
/-- `a.BSIZE`. -/
def aBsize (s : State) : Nat := s.latched.bsize.toNat
/-- `a.NEWW`. -/
def aNeww (s : State) : Nat := s.latched.neww.toNat
/-- `a.NEWH`. -/
def aNewh (s : State) : Nat := s.latched.newh.toNat

/-- The order of the stored kernel, `x[KORDER]` (R40). -/
def kernelOrder (s : State) : Nat := s.korder.toNat

/-- A buffer in data memory: a base address and a length in bytes (R88). -/
structure Buffer where
  /-- First byte. -/
  base : Nat
  /-- Length in bytes. -/
  len : Nat
deriving DecidableEq, Repr

/-- `base + length ≤ MEM_SIZE`, on unbounded integers; a buffer of length 0 is always in range (R88). -/
def inRange (s : State) (b : Buffer) : Bool := decide (b.len = 0 ∨ b.base + b.len ≤ s.params.memSize)

/-- Two buffers overlap (R89). -/
def overlaps (b c : Buffer) : Bool :=
  decide (0 < b.len ∧ 0 < c.len ∧ b.base < c.base + c.len ∧ c.base < b.base + b.len)

/-- `level_shift(s) = s - 128`, as an `i8` (R16). -/
def levelShift (b : Byte) : Byte := b - 128#8

/-- A sample read as `i8`, two's complement (R16, R83). -/
def sampleOf (b : Byte) : Int := b.toInt

/-- Entry `k` of a 64-entry table. -/
def entry {w : Nat} (t : Vector (BitVec w) 64) (k : Nat) : BitVec w := (t[k]?).getD 0

/-- `KERNEL[i][j]` (R41): +0.0 outside the 8×8 array. -/
def kernelAt (k : Vector F64Bits 64) (i j : Nat) : F64Bits := if i < 8 ∧ j < 8 then entry k (8 * i + j) else 0#64

end Sys2Proof.Machine
end

