-- ==== Sys2Proof/Machine/Ops.lean ====
section
/-! DEFINITION. The shared operations: data memory (spec/20_memory.md), races and free values (R94), the acceptance
of a command (spec/60_exceptions.md R305), and its two ends, `complete` (R309) and `raise Error(code)` (R310): the
block's whole "exception entry" (R312). There is no return from one (R313). -/

namespace Sys2Proof.Machine

namespace Memory

/-- The byte at an address (R90). -/
def read : Memory → Nat → Byte
  | [], _ => unlistedByte
  | (k, v) :: m, a => if k = a then v else read m a

/-- Put a cell before the first cell with a higher address. -/
def insertCell : Memory → Nat → Byte → Memory
  | [], a, b => [(a, b)]
  | (k, v) :: m, a, b => if a < k then (a, b) :: (k, v) :: m else (k, v) :: insertCell m a b

/-- Write a byte, keeping the canonical form: writing what an unlisted address reads as removes the cell. -/
def write (m : Memory) (a : Nat) (b : Byte) : Memory :=
  let rest := m.filter fun c => decide (c.1 ≠ a)
  if b = unlistedByte then rest else insertCell rest a b

/-- Write consecutive bytes from an address up. -/
def writeBytes : Memory → Nat → List Byte → Memory
  | m, _, [] => m
  | m, a, b :: bs => writeBytes (write m a b) (a + 1) bs

/-- `MemRead(addr, 2)` as a coefficient: little-endian, the byte at the lower address least significant
(R12, R84, R86). -/
def read16 (m : Memory) (a : Nat) : Coeff := read m (a + 1) ++ read m a

end Memory

/-- Byte `k` (0 low, 1 high) of a coefficient as `MemWrite(addr, 2, v)` stores it (R12, R84). -/
def coeffByte (v : Coeff) (k : Nat) : Byte := v.extractLsb' (8 * k) 8

/-- The host wrote this address while the running command was busy (R94; notes/assumptions/11.md). -/
def racedAt (s : State) (a : Nat) : Bool := s.raced.contains a

/-- Output byte `j` of a buffer at `base` is a race: the host wrote it too, or wrote a byte it is computed
from (R94). `srcs j` lists the addresses byte `j` is computed from. -/
def tainted (s : State) (base : Nat) (srcs : Nat → List Nat) (j : Nat) : Bool :=
  !s.raced.isEmpty && (racedAt s (base + j) || (srcs j).any (racedAt s))

/-- The value output byte `j` takes: what the command computes, or a free value where the byte is a race. -/
def settled (s : State) (base : Nat) (srcs : Nat → List Nat) (f : Nat → Byte) (j : Nat) : Byte :=
  if tainted s base srcs j then (Config.free .store s.draws (base + j)).setWidth 8 else f j

/-- Write an output buffer of `n` bytes at `base`: byte `j` is `f j`, computed from the addresses `srcs j`. -/
def storeBuffer (base n : Nat) (srcs : Nat → List Nat) (f : Nat → Byte) (s : State) : State :=
  { s with mem := Memory.writeBytes s.mem base ((List.range n).map (settled s base srcs f)) }

/-- The addresses of a buffer. -/
def addresses (b : Buffer) : List Nat := (List.range b.len).map (b.base + ·)

/-- Acceptance of a command word (R305): CMD, `op` and `arg` written, every argument CSR latched, BUSY set, and
DONE, ERR and ERRCODE cleared. OVR, KVALID and QVALID are not changed. The model's own part: no race is known yet,
no pass runs, and a new draw number begins. -/
def accept (w : Word) (s : State) : State :=
  { s with
    cmd := w, op := opField w, arg := aField w, latched := s.csr, busy := true, done := false, err := false,
    errCode := .noError, seq := none, raced := [], draws := s.draws + 1 }

/-- `complete` (R309): BUSY cleared, DONE set. No sequencer state survives (R251). -/
def complete (s : State) : State := { s with busy := false, done := true, seq := none }

/-- `raise Error(code)` (R310): the command stops, BUSY cleared, DONE and ERR set, the code recorded. No sequencer
state survives (R251). -/
def raiseError (c : ErrorCode) (s : State) : State :=
  { s with busy := false, done := true, err := true, errCode := c, seq := none }

/-- The first error whose condition holds, in the order listed (R302). -/
def firstError : List (Bool × ErrorCode) → Option ErrorCode
  | [] => none
  | (cond, c) :: rest => if cond then some c else firstError rest

/-- End a command after its checks (R307): with the error found, nothing but STATUS changes; with none, its effect
happens and it completes. -/
def conclude (check : Option ErrorCode) (effect : State → State) (s : State) : State :=
  match check with
  | some c => raiseError c s
  | none => complete (effect s)

end Sys2Proof.Machine
end

