-- ==== Sys2Proof/Machine/Basis.lean ====
section
/-! DEFINITION. DCT basis generation: GENBASIS (spec/40_dct_basis.md R141 to R144). -/

namespace Sys2Proof.Machine

/-- GENBASIS ends with BAD_ARG when N < 1 or N > 8 (R141, R143). -/
def genbasisCheck (n : Nat) : Option ErrorCode := firstError [(decide (n < 1 ∨ Config.kMax < n), .badArg)]

/-- Store the order-`n` kernel: KERNEL, KORDER and KVALID (R141, R256). -/
def buildKernel (n : Nat) (s : State) : State :=
  { s with kernel := kernelOf n, korder := BitVec.ofNat 32 n, kvalid := true }

/-- `GENBASIS n` (R141). -/
def execGenbasis (n : Nat) (s : State) : Out := .next (conclude (genbasisCheck n) (buildKernel n) s)

end Sys2Proof.Machine
end

