-- ==== Sys2Proof/Machine/Border.lean ====
section
/-! DEFINITION. Border extension and cropping: EXTEND, CROP, and the padding rule ENCODE shares
(spec/44_border_extender.md). -/

namespace Sys2Proof.Machine

/-- A dimension after padding with block size `n`: `W + (n − W mod n)`, a full block when it is already aligned
(R225). -/
def paddedDim (w n : Nat) : Nat := w + (n - w % n)

/-- A dimension in 1..65535 (R227, R232). -/
def dimOk (d : Nat) : Bool := decide (1 ≤ d ∧ d ≤ Config.dimMax)

/-- The address of sample (x, y) of a plane of width `w` at `base` (R82). -/
def sampleAddr (base w x y : Nat) : Nat := base + y * w + x

/-- The address EXTEND copies output sample (x, y) from: in(min(x, W−1), min(y, H−1)) (R226). -/
def extendAddr (base w h x y : Nat) : Nat := sampleAddr base w (min x (w - 1)) (min y (h - 1))

/-- EXTEND's source plane (R227). -/
def extendSrc (s : State) : Buffer := ⟨aSrc0 s, aWidth s * aHeight s⟩

/-- EXTEND's output width Wo. -/
def extendWidth (s : State) : Nat := paddedDim (aWidth s) (aBsize s)

/-- EXTEND's output height Ho. -/
def extendHeight (s : State) : Nat := paddedDim (aHeight s) (aBsize s)

/-- EXTEND's output plane (R227). -/
def extendDst (s : State) : Buffer := ⟨aDst s, extendWidth s * extendHeight s⟩

/-- EXTEND's checks, in the order of R227. -/
def extendCheck (s : State) : Option ErrorCode :=
  firstError
    [(!(dimOk (aWidth s) && dimOk (aHeight s) && dimOk (aBsize s)), .badArg),
      (decide (aDstlen s < (extendDst s).len), .addrRange),
      (!(inRange s (extendSrc s) && inRange s (extendDst s)), .addrRange),
      (overlaps (extendSrc s) (extendDst s), .overlap)]

/-- The source address of byte `j` of EXTEND's output plane. -/
def extendFrom (s : State) (j : Nat) : Nat :=
  extendAddr (aSrc0 s) (aWidth s) (aHeight s) (j % extendWidth s) (j / extendWidth s)

/-- EXTEND's effect: the output plane, and its dimensions in RESULT0 and RESULT1 (R227). -/
def extendEffect (s : State) : State :=
  { storeBuffer (aDst s) (extendDst s).len (fun j => [extendFrom s j]) (fun j => Memory.read s.mem (extendFrom s j)) s
    with result0 := BitVec.ofNat 32 (extendWidth s), result1 := BitVec.ofNat 32 (extendHeight s) }

/-- `EXTEND` (R227). -/
def execExtend (s : State) : Out := .next (conclude (extendCheck s) extendEffect s)

/-- CROP's source plane (R232). -/
def cropSrc (s : State) : Buffer := ⟨aSrc0 s, aWidth s * aHeight s⟩

/-- CROP's output plane (R232). -/
def cropDst (s : State) : Buffer := ⟨aDst s, aNeww s * aNewh s⟩

/-- CROP's checks, in the order of R232. -/
def cropCheck (s : State) : Option ErrorCode :=
  firstError
    [(!(dimOk (aWidth s) && dimOk (aHeight s)) || decide (aWidth s < aNeww s) || decide (aHeight s < aNewh s), .badArg),
      (!(inRange s (cropSrc s) && inRange s (cropDst s)), .addrRange),
      (overlaps (cropSrc s) (cropDst s), .overlap)]

/-- The source address of byte `j` of CROP's output plane: rows of length NEWW, not W (R232). -/
def cropFrom (s : State) (j : Nat) : Nat := sampleAddr (aSrc0 s) (aWidth s) (j % aNeww s) (j / aNeww s)

/-- CROP's effect (R232). -/
def cropEffect (s : State) : State :=
  storeBuffer (aDst s) (cropDst s).len (fun j => [cropFrom s j]) (fun j => Memory.read s.mem (cropFrom s j)) s

/-- `CROP` (R232). -/
def execCrop (s : State) : Out := .next (conclude (cropCheck s) cropEffect s)

namespace Plane

/-- The plane with no samples. -/
def empty : Plane := ⟨0, 0, []⟩

/-- Sample (x, y) (R14). -/
def sample (p : Plane) (x y : Nat) : Byte := (p.samples[y * p.width + x]?).getD 0

/-- A plane of data memory (R82). -/
def load (m : Memory) (base w h : Nat) : Plane := ⟨w, h, (List.range (w * h)).map fun j => Memory.read m (base + j)⟩

/-- A luma plane level-shifted into a new one (R257). -/
def shifted (p : Plane) : Plane := ⟨p.width, p.height, p.samples.map levelShift⟩

/-- A plane padded to given dimensions by edge replication (R226). -/
def extendTo (p : Plane) (wo ho : Nat) : Plane :=
  ⟨wo, ho, (List.range (wo * ho)).map fun j =>
    p.sample (min (j % wo) (p.width - 1)) (min (j / wo) (p.height - 1))⟩

end Plane

end Sys2Proof.Machine
end

