-- ==== Sys2Proof/Machine/Quant.lean ====
section
/-! DEFINITION. Quantization table scaling and quantization: QSCALE, QTBUILD, QUANT (spec/42_quantization.md). -/

namespace Sys2Proof.Machine

/-- Quality clamped to [1, 100] (R180). -/
def clampQuality (quality : Int) : Nat := (min (max quality 1) 100).toNat

/-- The scale factor `sf` of a clamped quality; the division truncates (R180, R182). -/
def scaleFactor (qc : Nat) : Nat := if qc < 50 then 5000 / qc else 200 - 2 * qc

/-- `qq(base, quality)`, the source's `quantQuality` (R180). -/
def qq (base : Nat) (quality : Int) : Nat := min (max ((base * scaleFactor (clampQuality quality) + 50) / 100) 1) 255

/-- A natural-order table scaled from a base table (R185). -/
def scaleTable (base : Vector Byte 64) (quality : Int) : Vector Byte 64 :=
  Vector.ofFn fun k => BitVec.ofNat 8 (qq (entry base k.val).toNat quality)

/-- The zigzag copy of a table: entry `i` is entry `ZZ[i]` (R185, R211). -/
def zigzagTable (t : Vector Byte 64) : Vector Byte 64 := Vector.ofFn fun i => entry t (ZZ i.val)

/-- Build the two working tables and their zigzag copies, all four together, and set QVALID (R42, R185, R254). -/
def buildTables (s : State) : State :=
  { s with
    qtLuma := scaleTable s.params.baseLuma (aQuality s), qtChroma := scaleTable s.params.baseChroma (aQuality s),
    qtzLuma := zigzagTable (scaleTable s.params.baseLuma (aQuality s)),
    qtzChroma := zigzagTable (scaleTable s.params.baseChroma (aQuality s)), qvalid := true }

/-- QSCALE's effect: RESULT0 is the scaled base value (R184). -/
def qscaleEffect (base : Nat) (s : State) : State := { s with result0 := BitVec.ofNat 32 (qq base (aQuality s)) }

/-- `QSCALE b` (R184). Quality is never an error. -/
def execQscale (base : Nat) (s : State) : Out := .next (conclude none (qscaleEffect base) s)

/-- `QTBUILD` (R185). -/
def execQtbuild (s : State) : Out := .next (conclude none buildTables s)

/-- `qround(c, q) = (2c + q) div (2q)`, floor division: ties go toward +∞ (R191). -/
def qround (c : Int) (q : Nat) : Int := (2 * c + q) / (2 * q)

/-- QUANT's block: 64 coefficients at a.SRC0 (R84, R190). -/
def quantBuffer (s : State) : Buffer := ⟨aSrc0 s, 128⟩

/-- QUANT's checks, in the order of R190. -/
def quantCheck (s : State) : Option ErrorCode :=
  firstError [(!s.qvalid, .noQtable), (!inRange s (quantBuffer s), .addrRange)]

/-- Coefficient `k` of the quantized block as stored (R190). -/
def quantCoeff (table : Vector Byte 64) (s : State) (k : Nat) : Coeff :=
  BitVec.ofInt 16 (qround (Memory.read16 s.mem (aSrc0 s + 2 * k)).toInt (entry table k).toNat)

/-- QUANT's effect, in place, all reads first (R91, R190). -/
def quantEffect (table : Vector Byte 64) (s : State) : State :=
  storeBuffer (aSrc0 s) 128 (fun j => [aSrc0 s + 2 * (j / 2), aSrc0 s + 2 * (j / 2) + 1])
    (fun j => coeffByte (quantCoeff table s (j / 2)) (j % 2)) s

/-- `QUANT.Y` (R190): by QT_LUMA. -/
def execQuantY (s : State) : Out := .next (conclude (quantCheck s) (quantEffect s.qtLuma) s)

/-- `QUANT.C` (R190): by QT_CHROMA. -/
def execQuantC (s : State) : Out := .next (conclude (quantCheck s) (quantEffect s.qtChroma) s)

end Sys2Proof.Machine
end

