-- ==== Sys2Proof/Machine/Float64.lean ====
section
/-! DEFINITION. IEEE 754 binary64 (spec/00_scope.md R10; notes/assumptions/16.md): addition and multiplication with roundTiesToEven, each
rounded once, and `floor`. A value is the datum itself, apart from the payload of a NaN (notes/assumptions/8.md). -/

namespace Sys2Proof.Machine

/-- A binary64 datum. `fin neg m e` is ± m · 2^(e − 1074) with `m < 2^53`, and `2^52 ≤ m` unless `e = 0`. -/
inductive F64 where
  | nan
  | inf (neg : Bool)
  | fin (neg : Bool) (m e : Nat)
deriving DecidableEq, Repr

namespace F64

/-- +0.0. -/
def zero : F64 := .fin false 0 0

/-- 0.5 = 2^52 · 2^(1021 − 1074). -/
def half : F64 := .fin false (2 ^ 52) 1021

/-- The datum a 64-bit encoding stands for. -/
def ofBits (b : F64Bits) : F64 :=
  let neg := b.getLsbD 63
  let ex := (b.extractLsb' 52 11).toNat
  let fr := (b.extractLsb' 0 52).toNat
  if ex = 0 then .fin neg fr 0
  else if ex = 2047 then (if fr = 0 then .inf neg else .nan)
  else .fin neg (2 ^ 52 + fr) (ex - 1)

/-- The encoding of a datum (a NaN as the quiet one with no payload). -/
def toBits : F64 → F64Bits
  | .nan => 0x7FF8000000000000#64
  | .inf neg => BitVec.ofBool neg ++ (2047#11 ++ 0#52)
  | .fin neg m e =>
    if m < 2 ^ 52 then BitVec.ofBool neg ++ (0#11 ++ BitVec.ofNat 52 m)
    else BitVec.ofBool neg ++ (BitVec.ofNat 11 (e + 1) ++ BitVec.ofNat 52 (m - 2 ^ 52))

/-- `m / 2^k` rounded to the nearest integer, ties to even. -/
def roundShift (m k : Nat) : Nat :=
  let q := m / 2 ^ k
  let r := 2 * (m % 2 ^ k)
  if r < 2 ^ k then q else if 2 ^ k < r then q + 1 else q + q % 2

/-- ± m · 2^(e − bias), `m > 0` and `bias ≥ 1074`, rounded once to binary64: the unit in the last place is the
larger of what leaves 53 bits and the subnormal one, and a result too large for the format is an infinity. -/
def round (neg : Bool) (m e bias : Nat) : F64 :=
  let pos := max (e + (Nat.log2 m + 1) - 53) (bias - 1074)
  let q := if pos ≤ e then m * 2 ^ (e - pos) else roundShift m (pos - e)
  let q' := if q = 2 ^ 53 then 2 ^ 52 else q
  let pos' := if q = 2 ^ 53 then pos + 1 else pos
  let e' := pos' - (bias - 1074)
  if 2045 < e' then .inf neg else .fin neg q' e'

/-- `mul64` on data (R10). -/
def mul : F64 → F64 → F64
  | .nan, _ | _, .nan => .nan
  | .inf n, .inf n' => .inf (n != n')
  | .inf n, .fin n' m _ | .fin n' m _, .inf n => if m = 0 then .nan else .inf (n != n')
  | .fin n m e, .fin n' m' e' =>
    if m = 0 ∨ m' = 0 then .fin (n != n') 0 0 else round (n != n') (m * m') (e + e') 2148

/-- The sum of two non-zero finite data, aligned at the lower exponent; an exact zero is +0.0. -/
def addAligned (n : Bool) (m e : Nat) (n' : Bool) (m' e' : Nat) : F64 :=
  let b := min e e'
  let x := m * 2 ^ (e - b)
  let y := m' * 2 ^ (e' - b)
  if n = n' then round n (x + y) b 1074
  else if x = y then zero
  else if x < y then round n' (y - x) b 1074
  else round n (x - y) b 1074

/-- `add64` on data (R10). A zero added to a zero is −0.0 only if both are. -/
def add : F64 → F64 → F64
  | .nan, _ | _, .nan => .nan
  | .inf n, .inf n' => if n = n' then .inf n else .nan
  | .inf n, .fin .. | .fin .., .inf n => .inf n
  | .fin n m e, .fin n' m' e' =>
    if m = 0 then (if m' = 0 then .fin (n && n') 0 0 else .fin n' m' e')
    else if m' = 0 then .fin n m e
    else addAligned n m e n' m' e'

/-- `f64(n)`: the binary64 value of an integer (R10). -/
def ofInt (n : Int) : F64 := if n = 0 then zero else round (decide (n < 0)) n.natAbs 1074 1074

/-- `floor(x)`: the greatest integer ≤ x, taken exactly (R10). A free value on a NaN or an infinity. -/
def floor : F64 → Int
  | .nan => Config.floorOfNaN
  | .inf neg => Config.floorOfInf neg
  | .fin neg m e =>
    if m = 0 then 0
    else if 1074 ≤ e then (if neg then -((m * 2 ^ (e - 1074) : Nat) : Int) else ((m * 2 ^ (e - 1074) : Nat) : Int))
    else if neg then -(((m + (2 ^ (1074 - e) - 1)) / 2 ^ (1074 - e) : Nat) : Int)
    else ((m / 2 ^ (1074 - e) : Nat) : Int)

end F64

/-- `round64(x) = floor(add64(x, 0.5))` (R163). -/
def round64 (x : F64) : Int := F64.floor (F64.add x F64.half)

end Sys2Proof.Machine
end

