-- ==== Sys2Proof/Machine/Transform.lean ====
section
/-! DEFINITION. The forward block transform: the reference evaluation `DCT_EVAL` and XFORM
(spec/41_block_transform.md R160 to R169). -/

namespace Sys2Proof.Machine

/-- A sum of `n` products, k upward from +0.0, each product and each sum rounded once (R162). -/
def dot (n : Nat) (x y : Nat → F64) : F64 :=
  (List.range n).foldl (fun acc k => F64.add acc (F64.mul (x k) (y k))) F64.zero

/-- `KERNEL[i][j]` as a datum. -/
def kernelDatum (K : Vector F64Bits 64) (i j : Nat) : F64 := F64.ofBits (kernelAt K i j)

/-- The row pass `T = B · Kᵀ`, not rounded to an integer (R162). -/
def rowPass (n : Nat) (K : Vector F64Bits 64) (B : Nat → Nat → Int) (r v : Nat) : F64 :=
  dot n (fun k => F64.ofInt (B r k)) (fun k => kernelDatum K v k)

/-- The column pass's sum, `acc` of `C = K · T` before it is rounded (R162, R165). -/
def columnPass (n : Nat) (K : Vector F64Bits 64) (B : Nat → Nat → Int) (u v : Nat) : F64 :=
  dot n (fun k => kernelDatum K u k) (fun k => rowPass n K B k v)

/-- `DCT_EVAL(N, KERNEL, B)[u][v]` (R162, R163). The reference evaluation, which the spec's hardware computes
exactly (R166, notes/assumptions/9.md). -/
def dctEval (n : Nat) (K : Vector F64Bits 64) (B : Nat → Nat → Int) (u v : Nat) : Int := round64 (columnPass n K B u v)

/-- XFORM's source block: N·N bytes at a.SRC0 (R83, R160). -/
def xformSrc (s : State) : Buffer := ⟨aSrc0 s, kernelOrder s * kernelOrder s⟩

/-- XFORM's destination block: N·N coefficients at a.DST (R84, R160). -/
def xformDst (s : State) : Buffer := ⟨aDst s, 2 * (kernelOrder s * kernelOrder s)⟩

/-- XFORM's checks, in the order of R160. -/
def xformCheck (s : State) : Option ErrorCode :=
  firstError
    [(!s.kvalid, .noKernel), (!(inRange s (xformSrc s) && inRange s (xformDst s)), .addrRange),
      (overlaps (xformSrc s) (xformDst s), .overlap)]

/-- The sample block B of XFORM: element (r, c) is the `i8` at a.SRC0 + r·N + c (R83, R160). -/
def xformBlock (s : State) (r c : Nat) : Int := sampleOf (Memory.read s.mem (aSrc0 s + r * kernelOrder s + c))

/-- The coefficient C[u][v] as stored, `C[u][v][15:0]`, without saturation (R160, R164). -/
def xformCoeff (s : State) (u v : Nat) : Coeff :=
  BitVec.ofInt 16 (dctEval (kernelOrder s) s.kernel (xformBlock s) u v)

/-- Byte `j` of the output block: coefficients in natural row-major order, little-endian (R84). -/
def xformByte (s : State) (j : Nat) : Byte :=
  coeffByte (xformCoeff s (j / 2 / kernelOrder s) (j / 2 % kernelOrder s)) (j % 2)

/-- The effect of XFORM: every output byte is computed from every sample of the block. -/
def xformEffect (s : State) : State :=
  storeBuffer (aDst s) (xformDst s).len (fun _ => addresses (xformSrc s)) (xformByte s) s

/-- `XFORM` (R160). -/
def execXform (s : State) : Out := .next (conclude (xformCheck s) xformEffect s)

/-- `XFORM.LS` (R160): the level-shifted variant computes the same function, as L has no effect (R168). -/
def execXformLs (s : State) : Out := .next (conclude (xformCheck s) xformEffect s)

end Sys2Proof.Machine
end

