-- ==== Sys2Proof/Machine/Zigzag.lean ====
section
/-! DEFINITION. Zigzag reordering: ZIGZAG (spec/43_zigzag.md R211, R212). -/

namespace Sys2Proof.Machine

/-- The block operand: 128 bytes at a.SRC0 if B = 1, else nothing (R212). -/
def zigzagBlockBuffer (b : Bool) (s : State) : Buffer := ⟨aSrc0 s, if b then 128 else 0⟩

/-- The table operand: 64 bytes at a.SRC1 if T = 1, else nothing (R212). -/
def zigzagTableBuffer (t : Bool) (s : State) : Buffer := ⟨aSrc1 s, if t then 64 else 0⟩

/-- ZIGZAG's checks, in the order of R212; an operand that is not selected is not checked. -/
def zigzagCheck (b t : Bool) (s : State) : Option ErrorCode :=
  firstError
    [(!(inRange s (zigzagBlockBuffer b s) && inRange s (zigzagTableBuffer t s)), .addrRange),
      (overlaps (zigzagBlockBuffer b s) (zigzagTableBuffer t s), .overlap)]

/-- Reorder the block in place by the gather `result[i] = source[ZZ[i]]`, all reads first (R91, R211, R212). R94 leaves
open whether a byte copied from a coefficient of which the host wrote the other byte alone is computed from a raced byte:
it is here, a coefficient being one value of two bytes. DESIGN CHOICE, safe (notes/assumptions/11.md). -/
def zigzagBlockEffect (s : State) : State :=
  storeBuffer (aSrc0 s) 128 (fun j => [aSrc0 s + 2 * ZZ (j / 2), aSrc0 s + 2 * ZZ (j / 2) + 1])
    (fun j => Memory.read s.mem (aSrc0 s + 2 * ZZ (j / 2) + j % 2)) s

/-- Reorder the table in place by the same gather (R212). -/
def zigzagTableEffect (s : State) : State :=
  storeBuffer (aSrc1 s) 64 (fun j => [aSrc1 s + ZZ j]) (fun j => Memory.read s.mem (aSrc1 s + ZZ j)) s

/-- ZIGZAG's effect for its two flags (R212). -/
def zigzagEffect (b t : Bool) (s : State) : State :=
  let s' := if b then zigzagBlockEffect s else s
  if t then zigzagTableEffect s' else s'

/-- `ZIGZAG` (R212) with B = T = 0: completes with no memory access. -/
def execZigzag (s : State) : Out := .next (conclude (zigzagCheck false false s) (zigzagEffect false false) s)

/-- `ZIGZAG.B` (R212). -/
def execZigzagB (s : State) : Out := .next (conclude (zigzagCheck true false s) (zigzagEffect true false) s)

/-- `ZIGZAG.T` (R212). -/
def execZigzagT (s : State) : Out := .next (conclude (zigzagCheck false true s) (zigzagEffect false true) s)

/-- `ZIGZAG.BT` (R212). -/
def execZigzagBT (s : State) : Out := .next (conclude (zigzagCheck true true s) (zigzagEffect true true) s)

end Sys2Proof.Machine
end

