-- ==== Sys2Proof/Machine/Encode.lean ====
section
/-! DEFINITION. The macroblock sequencer and the writer port: ENCODE, the core's later steps of a pass, and the
sink's answers (spec/45_macroblock_sequencer.md). -/

namespace Sys2Proof.Machine

/-- Chroma width cw = W div 2 (R259). -/
def chromaWidth (s : State) : Nat := aWidth s / 2

/-- Chroma height ch = H div 2 (R259). -/
def chromaHeight (s : State) : Nat := aHeight s / 2

/-- ENCODE's luma plane (R252). -/
def lumaBuffer (s : State) : Buffer := ⟨aSrc0 s, aWidth s * aHeight s⟩

/-- ENCODE's U plane (R252). -/
def uBuffer (s : State) : Buffer := ⟨aSrc1 s, chromaWidth s * chromaHeight s⟩

/-- ENCODE's V plane (R252). -/
def vBuffer (s : State) : Buffer := ⟨aSrc2 s, chromaWidth s * chromaHeight s⟩

/-- A dimension in 2..65535 (R252). -/
def encodeDimOk (d : Nat) : Bool := decide (2 ≤ d ∧ d ≤ Config.dimMax)

/-- ENCODE's checks, in the order of R252. -/
def encodeCheck (s : State) : Option ErrorCode :=
  firstError
    [(!(encodeDimOk (aWidth s) && encodeDimOk (aHeight s)), .badArg),
      (!(inRange s (lumaBuffer s) && inRange s (uBuffer s) && inRange s (vBuffer s)), .addrRange)]

/-- Padding applies when either dimension is not a multiple of 16 (R258). -/
def needsPadding (s : State) : Bool := decide (aWidth s % Config.mbSize ≠ 0 ∨ aHeight s % Config.mbSize ≠ 0)

/-- A dimension in the pass: padded if padding applies, else as it is (R258). -/
def passDim (s : State) (d n : Nat) : Nat := if needsPadding s then paddedDim d n else d

/-- Wp (R258). -/
def passWp (s : State) : Nat := passDim s (aWidth s) Config.mbSize
/-- Hp (R258). -/
def passHp (s : State) : Nat := passDim s (aHeight s) Config.mbSize
/-- cWp (R258). -/
def passCwp (s : State) : Nat := passDim s (chromaWidth s) Config.blockSize
/-- cHp (R258). -/
def passChp (s : State) : Nat := passDim s (chromaHeight s) Config.blockSize

/-- The sequencer as a pass begins. What it holds before PREPARE assigns it, R251 leaves open: the padded dimensions,
the grid size, the position, `e` and the working planes are 0 and empty planes here. DESIGN CHOICE that nothing reads
(notes/assumptions/21.md); so mx < MBW and my < MBH hold from PREPARE on. -/
def Sequencer.start : Sequencer :=
  { phase := .tables, hdr := 0, wp := 0, hp := 0, cwp := 0, chp := 0, mbw := 0, mbh := 0, mx := 0, my := 0, e := 0,
    pending := none, ys := Plane.empty, yp := Plane.empty, up := Plane.empty, vp := Plane.empty }

/-- Begin a pass: the counters cleared (R39, R252), phase TABLES. -/
def beginPass (s : State) : State := { s with mbCount := 0, blkCount := 0, seq := some Sequencer.start }

/-- `block(P, ox, oy)`: element (r, c) is P(ox + c, oy + r), an `i8` (R252, R263, R264). -/
def planeBlock (p : Plane) (ox oy r c : Nat) : Int := sampleOf (p.sample (ox + c) (oy + r))

/-- Entry `k` of the quantized block, natural order (R265). -/
def codeNatural (K : Vector F64Bits 64) (B : Nat → Nat → Int) (q : Vector Byte 64) (k : Nat) : Int :=
  qround (dctEval 8 K B (k / 8) (k % 8)) (entry q k).toNat

/-- `code(B, Q)`: transform, quantize, reorder (R265). -/
def code (K : Vector F64Bits 64) (B : Nat → Nat → Int) (q : Vector Byte 64) : Vector Coeff 64 :=
  Vector.ofFn fun i => BitVec.ofInt 16 (codeNatural K B q (ZZ i.val))

/-- Sub-block origin in the padded luma (R263). -/
def lumaOrigin (q : Sequencer) : Nat × Nat := (16 * q.mx + 8 * (q.e % 2), 16 * q.my + 8 * (q.e / 2))

/-- Block origin in the padded chroma (R264). -/
def chromaOrigin (q : Sequencer) : Nat × Nat := (8 * q.mx, 8 * q.my)

/-- The plane the current block is taken from. -/
def currentPlane (q : Sequencer) : Plane := if q.e < 4 then q.yp else if q.e = 4 then q.up else q.vp

/-- The origin of the current block in its plane. -/
def currentOrigin (q : Sequencer) : Nat × Nat := if q.e < 4 then lumaOrigin q else chromaOrigin q

/-- The table the current block is divided by: QT_LUMA for luma, QT_CHROMA for chroma (R265). -/
def currentTable (s : State) (q : Sequencer) : Vector Byte 64 := if q.e < 4 then s.qtLuma else s.qtChroma

/-- The data-memory address that sample (x, y) of the current block's padded plane comes from (R226, R257). -/
def currentSource (s : State) (q : Sequencer) (x y : Nat) : Nat :=
  if q.e < 4 then extendAddr (aSrc0 s) (aWidth s) (aHeight s) x y
  else extendAddr (if q.e = 4 then aSrc1 s else aSrc2 s) (chromaWidth s) (chromaHeight s) x y

/-- Some sample of the current block is a race: the host wrote it while the pass ran (R94, R353). -/
def blockRaced (s : State) (q : Sequencer) : Bool :=
  !s.raced.isEmpty &&
    (List.range 64).any fun k => racedAt s (currentSource s q ((currentOrigin q).1 + k % 8) ((currentOrigin q).2 + k / 8))

/-- The payload of the current block event: `code` of the block, or free values where a sample is a race. -/
def blockPayload (s : State) (q : Sequencer) : Vector Coeff 64 :=
  if blockRaced s q then
    Vector.ofFn fun k => (Config.free .coeff s.draws (64 * s.blkCount.toNat + k.val)).setWidth 16
  else code s.kernel (planeBlock (currentPlane q) (currentOrigin q).1 (currentOrigin q).2) (currentTable s q)

/-- The event of the current block: BLOCK_Y for e = 0..3, BLOCK_U for 4, BLOCK_V for 5 (R252, R263, R264). -/
def blockEvent (s : State) (q : Sequencer) : WriterEvent :=
  if q.e < 4 then .blockY (blockPayload s q) else if q.e = 4 then .blockU (blockPayload s q) else .blockV (blockPayload s q)

/-- The header event after `hdr` accepted ones: HEADER, QTABLES, IMAGEINFO with the original size, HUFFMAN (R255). -/
def headerEvent (s : State) (hdr : Nat) : WriterEvent :=
  match hdr with
  | 0 => .header
  | 1 => .qtables s.qtzLuma s.qtzChroma
  | 2 => .imageInfo (BitVec.ofNat 16 (aWidth s)) (BitVec.ofNat 16 (aHeight s))
  | _ => .huffman

/-- Offer an event to the sink: it is pending until the sink answers (R270). -/
def offer (ev : WriterEvent) (q : Sequencer) (s : State) : State :=
  { s with seq := some { q with pending := some ev }, stream := s.stream ++ [ev] }

/-- The padded dimensions, the grid and the working planes (R257, R258, R261). That the grid, the position and `e`, which
R252 assigns in phase BLOCKS, are assigned in this step already is a DESIGN CHOICE that nothing observes
(notes/assumptions/21.md). -/
def preparePlanes (s : State) (q : Sequencer) : Sequencer :=
  let ys := (Plane.load s.mem (aSrc0 s) (aWidth s) (aHeight s)).shifted
  let u := Plane.load s.mem (aSrc1 s) (chromaWidth s) (chromaHeight s)
  let v := Plane.load s.mem (aSrc2 s) (chromaWidth s) (chromaHeight s)
  { q with
    phase := .kernelBuild, wp := passWp s, hp := passHp s, cwp := passCwp s, chp := passChp s,
    mbw := passWp s / Config.mbSize, mbh := passHp s / Config.mbSize, mx := 0, my := 0, e := 0, ys := ys,
    yp := ys.extendTo (passWp s) (passHp s), up := u.extendTo (passCwp s) (passChp s),
    vp := v.extendTo (passCwp s) (passChp s) }

/-- The core's next step of a pass, by phase (R252, R361). While an event is offered it waits (R271). -/
def passStep (s : State) : State :=
  match s.seq with
  | none => s
  | some q =>
    match q.pending with
    | some _ => s
    | none =>
      match q.phase with
      | .tables => { buildTables s with seq := some { q with phase := .hdrEvents, hdr := 0 } }
      | .hdrEvents => offer (headerEvent s q.hdr) q s
      | .prepare => { s with seq := some (preparePlanes s q) }
      | .kernelBuild => { buildKernel 8 s with seq := some { q with phase := .blocks } }
      | .blocks => offer (blockEvent s q) q s
      | .finishing => offer .finish q s

/-- `ENCODE` (R252): the checks, the counters cleared, the tables rebuilt, and HEADER offered. The pass then goes
on with the sink's answers; BUSY stays 1 until it ends (R250). That these are one step is a DESIGN CHOICE that R361 allows
(notes/assumptions/13.md). -/
def execEncode (s : State) : Out :=
  match encodeCheck s with
  | some c => .next (raiseError c s)
  | none => .next (passStep (passStep (beginPass s)))

/-- The position after an accepted block event: the next event of the macroblock, or the next macroblock in raster
order, or phase FINISHING after the last (R252, R261, R266). What mx, my and e hold in FINISHING the spec leaves open: the last
macroblock's position and e = 5 stay. DESIGN CHOICE that nothing reads (notes/assumptions/21.md). -/
def nextPosition (q : Sequencer) : Sequencer :=
  if q.e = 5 then
    if q.mx + 1 < q.mbw then { q with e := 0, mx := q.mx + 1 }
    else if q.my + 1 < q.mbh then { q with e := 0, mx := 0, my := q.my + 1 }
    else { q with phase := .finishing }
  else { q with e := q.e + 1 }

/-- The sink accepts the offered event. A block event is counted in BLKCOUNT, and the BLOCK_V that ends a
macroblock in MBCOUNT too (R39); FINISH completes the command (R266). -/
def eventAccepted (q : Sequencer) (s : State) : State :=
  let q' := { q with pending := none }
  match q.phase with
  | .hdrEvents =>
    { s with seq := some (if q.hdr < 3 then { q' with hdr := q.hdr + 1 } else { q' with phase := .prepare }) }
  | .blocks =>
    { s with
      blkCount := s.blkCount + 1, mbCount := if q.e = 5 then s.mbCount + 1 else s.mbCount,
      seq := some (nextPosition q') }
  | .finishing => complete s
  | .tables | .prepare | .kernelBuild => { s with seq := some q' }

/-- The sink answers the offered event: ACCEPT goes on, FAIL ends the pass at once with WRITER_FAIL and no further
event (R268, R270). -/
def sinkAnswer (a : Answer) (s : State) : Out :=
  match s.seq with
  | none => .fault .answerWithoutEvent
  | some q =>
    match q.pending, a with
    | none, _ => .fault .answerWithoutEvent
    | some _, .accept => .next (eventAccepted q s)
    | some _, .fail => .next (raiseError .writerFail s)

end Sys2Proof.Machine
end

