-- ==== Sys2Proof/Machine/Csr.lean ====
section
/-! DEFINITION. The CSR window as the host sees it (spec/10_state.md R30 to R43; spec/60_exceptions.md R315;
spec/70_reset_and_hazards.md R355). -/

namespace Sys2Proof.Machine

/-- The word the core checks and runs: RSV of CMD, and the `arg` and `op` taken from it at acceptance (R110, R306). -/
def commandWord (s : State) : Word := rsvField s.cmd ++ (s.arg ++ s.op)

/-- The command that runs, if BUSY and its word is legal. -/
def running (s : State) : Option Instr := if s.busy then (decode (commandWord s)).toOption else none

/-- GENBASIS or ENCODE runs (R355). -/
def rebuildsKernel (s : State) : Bool :=
  match running s with
  | some (.genbasis _) | some .encode => true
  | _ => false

/-- QTBUILD or ENCODE runs (R355). -/
def rebuildsTables (s : State) : Bool :=
  match running s with
  | some .qtbuild | some .encode => true
  | _ => false

/-- A CSR access of the only defined form: 32 bits at an offset that is a multiple of 4 (R30). -/
def csrAligned (off : BitVec 12) (bytes : Nat) : Bool := decide (bytes = 4 ∧ off.toNat % 4 = 0)

/-- Word `m` of a 64-byte table: `{T[4m+3], T[4m+2], T[4m+1], T[4m]}` (R43). -/
def tableWord32 (t : Vector Byte 64) (m : Nat) : Word :=
  entry t (4 * m + 3) ++ (entry t (4 * m + 2) ++ (entry t (4 * m + 1) ++ entry t (4 * m)))

/-- Word `m` of the KERNEL window: bits 31:0 of an entry at an even word, bits 63:32 at the odd one above (R43). -/
def kernelWord32 (k : Vector F64Bits 64) (m : Nat) : Word := (entry k (m / 2)).extractLsb' (32 * (m % 2)) 32

/-- What a window read the spec leaves unspecified returns: a free value (R43, R355; notes/assumptions/20.md). -/
def unspecifiedWord (s : State) (off : Nat) : Word := Config.free .window s.draws off

/-- A quantization table window: unspecified while QVALID = 0 or while the tables are rebuilt (R43, R355). -/
def tableWindow (s : State) (t : Vector Byte 64) (base off : Nat) : Word :=
  if !s.qvalid || rebuildsTables s then unspecifiedWord s off else tableWord32 t ((off - base) / 4)

/-- The KERNEL window: unspecified while KVALID = 0 or while the kernel is rebuilt (R43, R355). -/
def kernelWindow (s : State) (off : Nat) : Word :=
  if !s.kvalid || rebuildsKernel s then unspecifiedWord s off else kernelWord32 s.kernel ((off - 0x200) / 4)

/-- The windows and the reserved offsets, 0x100 and up; a reserved offset reads 0 (R31, R43). -/
def windowWord (s : State) (off : Nat) : Word :=
  if off < 0x100 then 0
  else if off < 0x140 then tableWindow s s.qtLuma 0x100 off
  else if off < 0x180 then tableWindow s s.qtChroma 0x140 off
  else if off < 0x1C0 then tableWindow s s.qtzLuma 0x180 off
  else if off < 0x200 then tableWindow s s.qtzChroma 0x1C0 off
  else if off < 0x400 then kernelWindow s off
  else 0

/-- The register map (R31), read at an aligned offset. -/
def csrWord (s : State) (off : Nat) : Word :=
  match off with
  | 0x000 => idValue
  | 0x004 => versionValue
  | 0x008 => s.cmd
  | 0x00C => statusWord s
  | 0x010 => ienWord s
  | 0x020 => s.csr.src0
  | 0x024 => s.csr.src1
  | 0x028 => s.csr.src2
  | 0x02C => s.csr.dst
  | 0x030 => s.csr.dstlen
  | 0x034 => s.csr.width
  | 0x038 => s.csr.height
  | 0x03C => s.csr.quality
  | 0x040 => s.csr.bsize
  | 0x044 => s.csr.neww
  | 0x048 => s.csr.newh
  | 0x060 => s.result0
  | 0x064 => s.result1
  | 0x068 => s.mbCount
  | 0x06C => s.blkCount
  | 0x070 => s.korder
  | _ => windowWord s off

/-- A CSR read: 0 on every byte lane for any other width or alignment (R30). -/
def csrRead (s : State) (off : BitVec 12) (bytes : Nat) : Word :=
  if csrAligned off bytes then csrWord s off.toNat else 0

/-- A write to CMD: accepted while BUSY = 0, dropped with OVR set while BUSY = 1 (R33, R305, R314). -/
def writeCmd (w : Word) (s : State) : State := if s.busy then { s with ovr := true } else accept w s

/-- A write to an argument CSR at an aligned offset (R31, R37). -/
def writeArg (off : Nat) (v : Word) (a : Args) : Args :=
  match off with
  | 0x020 => { a with src0 := v }
  | 0x024 => { a with src1 := v }
  | 0x028 => { a with src2 := v }
  | 0x02C => { a with dst := v }
  | 0x030 => { a with dstlen := v }
  | 0x034 => { a with width := v }
  | 0x038 => { a with height := v }
  | 0x03C => { a with quality := v }
  | 0x040 => { a with bsize := v }
  | 0x044 => { a with neww := v }
  | 0x048 => { a with newh := v }
  | _ => a

/-- A CSR write: ignored for any other width or alignment, at a read-only register, at a table window and at a
reserved offset (R30 to R32, R43). -/
def csrWrite (off : BitVec 12) (bytes : Nat) (v : Word) (s : State) : State :=
  if csrAligned off bytes then
    match off.toNat with
    | 0x008 => writeCmd v s
    | 0x00C => writeStatus v s
    | 0x010 => writeIen v s
    | o => { s with csr := writeArg o v s.csr }
  else s

end Sys2Proof.Machine
end

