-- ==== Sys2Proof/Machine/Dispatch.lean ====
section
/-! DEFINITION. One arm per command: what the core does with a decoded command (spec/60_exceptions.md R306). -/

namespace Sys2Proof.Machine

def exec (i : Instr) (s : State) : Host.Outcome State Fault Refusal :=
  match i with
  | .genbasis n => Sys2Proof.Machine.execGenbasis n s
  | .xform => Sys2Proof.Machine.execXform s
  | .xformLs => Sys2Proof.Machine.execXformLs s
  | .qscale base => Sys2Proof.Machine.execQscale base s
  | .qtbuild => Sys2Proof.Machine.execQtbuild s
  | .quantY => Sys2Proof.Machine.execQuantY s
  | .quantC => Sys2Proof.Machine.execQuantC s
  | .zigzag => Sys2Proof.Machine.execZigzag s
  | .zigzagB => Sys2Proof.Machine.execZigzagB s
  | .zigzagT => Sys2Proof.Machine.execZigzagT s
  | .zigzagBT => Sys2Proof.Machine.execZigzagBT s
  | .extend => Sys2Proof.Machine.execExtend s
  | .crop => Sys2Proof.Machine.execCrop s
  | .encode => Sys2Proof.Machine.execEncode s

end Sys2Proof.Machine
end

