-- ==== Sys2Proof/Machine/Engine.lean ====
section
/-! DEFINITION. The moves of the agents, each one indivisible step (spec/00_scope.md R4; spec/60_exceptions.md R306,
R322): the core's step, the host's accesses, the sink's answers and reset. -/

namespace Sys2Proof.Machine

/-- The core's next step. Idle, it waits for a CMD write (R333). In a pass it goes on with the pass (R361). Else it
runs the accepted command: an illegal word ends with ILLEGAL_CMD before anything else, a legal one runs its rule
(R306). A command is one step, at its completion: DESIGN CHOICE that
R93 and R360 allow (notes/assumptions/10.md). -/
def coreStep (s : State) : Out :=
  if s.busy then
    match s.seq with
    | some _ => .next (passStep s)
    | none =>
      match decode (commandWord s) with
      | .ok i => exec i s
      | .error _ => .next (raiseError .illegalCmd s)
  else .next s

/-- Data memory as the core's next step leaves it. -/
def memoryAfter (s : State) : Memory :=
  match coreStep s with
  | .next t => t.mem
  | _ => s.mem

/-- One free bit: whether a byte is still its old value. -/
def keepsOld (k : Config.FreeKind) (s : State) (a : Nat) : Bool := (Config.free k s.draws a).getLsbD 0

/-- A byte while the core's next step may be writing it: where its old value and its new one differ, either, by a free
value (R94, R341). -/
def oldOrNew (k : Config.FreeKind) (s : State) (a : Nat) : Byte :=
  if decide (Memory.read (memoryAfter s) a = Memory.read s.mem a) || keepsOld k s a then Memory.read s.mem a
  else Memory.read (memoryAfter s) a

/-- A host read of a data byte. A byte the running command writes reads as its old value or its new one (R94); any
other reads as it is (R90). -/
def hostByte (s : State) (a : Nat) : Byte := oldOrNew .hostByte s a

/-- A host write of a data byte; while BUSY = 1 the address is remembered as a race (R94;
notes/assumptions/11.md). -/
def hostWriteByte (a : Nat) (v : Byte) (s : State) : State :=
  { s with mem := Memory.write s.mem a v, raced := if s.busy then a :: s.raced else s.raced }

/-- A host read returns its value and draws one free value; it has no other effect (R30, R90). -/
def hostReturns (v : Word) (s : State) : State := { s with hostData := v, draws := s.draws + 1 }

/-- A host access. Data memory has no address MEM_SIZE or above (R80). -/
def hostAccess (a : HostAccess) (s : State) : Out :=
  match a with
  | .csrRead off bytes => .next (hostReturns (csrRead s off bytes) s)
  | .csrWrite off bytes v => .next (csrWrite off bytes v s)
  | .memRead addr =>
    if addr < s.params.memSize then .next (hostReturns ((hostByte s addr).setWidth 32) s)
    else .fault (.hostAddressOutsideMemory addr)
  | .memWrite addr v =>
    if addr < s.params.memSize then .next (hostWriteByte addr v s) else .fault (.hostAddressOutsideMemory addr)

/-- Data memory when a command is aborted: each byte it writes is its old value or the one it would have written,
by a free value for each byte, and every other byte is unchanged (R341). -/
def abortedMemory (s : State) : Memory :=
  (memoryAfter s ++ s.mem).foldl
    (fun m c => if oldOrNew .abort s c.1 = Memory.read s.mem c.1 then m else Memory.write m c.1 (oldOrNew .abort s c.1))
    s.mem

/-- The reset input (R340 to R342): every register at its reset value, the running command aborted, any pending event
withdrawn, data memory otherwise untouched. The other agents keep what is theirs (notes/assumptions/12.md). -/
def resetInput (s : State) : State :=
  { State.resetWith s.params with
    mem := if s.busy then abortedMemory s else s.mem
    moves := s.moves, stream := s.stream, hostData := s.hostData, draws := s.draws + 1 }

/-- One agent's move. -/
def takeMove (m : Move) (s : State) : Out :=
  match m with
  | .host a => hostAccess a s
  | .sink a => sinkAnswer a s
  | .reset => .next (resetInput s)
  | .core => coreStep s

end Sys2Proof.Machine
end

