-- ==== Sys2Proof/Machine/Step.lean ====
section
/-! DEFINITION. One step of the machine: the oldest listed move, or the core's own step when none is listed
(spec/60_exceptions.md R322; spec/70_reset_and_hazards.md R360). -/

namespace Sys2Proof.Machine

/-- One step. The moves list is the order in which the agents' steps are serialised (R322). -/
def step (s : State) : Host.Outcome State Fault Refusal :=
  match s.moves with
  | [] => coreStep s
  | m :: rest => takeMove m { s with moves := rest }

/-- `s` with the command word given by its bits accepted (R305), and the core's step next: the very next step runs
that command. The block fetches nothing (R97), so this stands for the host's CMD write (notes/assumptions/1.md). -/
def State.withFetchWord (s : State) (nbits w : Nat) : State :=
  { accept (tableWord nbits w) s with moves := .core :: s.moves }

end Sys2Proof.Machine
end

