-- ==== Sys2Proof/Safety.lean ====
section
/-! DEFINITION. The terms claims use: the invariants of the machine, the states a run reaches, and the event stream
that the spec gives an ENCODE pass, written from the bytes of the three planes alone. -/

namespace Sys2Proof.Machine

/-- Data memory is in canonical form and lists no address outside the space (R80). -/
abbrev MemoryOk (s : State) : Prop := Memory.wf s.mem ∧ ∀ c ∈ s.mem, c.1 < s.params.memSize

/-- KORDER ≠ 0 exactly when KVALID = 1 (R40); a valid KERNEL is that of its order, at most 8 (R41, R143). -/
abbrev KernelOk (s : State) : Prop :=
  (s.kvalid = true ↔ s.korder ≠ 0) ∧
    (s.kvalid = true → s.korder.toNat ≤ Config.kMax ∧ s.kernel = kernelOf s.korder.toNat)

/-- The four tables are those of one quality. -/
def tablesOf (s : State) (quality : Int) : Prop :=
  s.qtLuma = scaleTable s.params.baseLuma quality ∧ s.qtChroma = scaleTable s.params.baseChroma quality ∧
    s.qtzLuma = zigzagTable s.qtLuma ∧ s.qtzChroma = zigzagTable s.qtChroma

/-- Valid tables were built all four together from one quality (R42, R185). -/
def TablesOk (s : State) : Prop := s.qvalid = true → ∃ quality : Int, tablesOf s quality

/-- What STATUS can show: while a command runs, DONE, ERR and ERRCODE are 0 (R305); ERR is set exactly when a code is
recorded (R303, R310); and the hidden `op` and `arg` are those of CMD while it runs (R305). -/
abbrev StatusOk (s : State) : Prop :=
  (s.busy = true → s.done = false ∧ s.errCode = .noError ∧ s.op = opField s.cmd ∧ s.arg = aField s.cmd) ∧
    (s.err = true ↔ s.errCode ≠ .noError)

/-- The grid and the padded dimensions that PREPARE computed (R258, R261). -/
def gridOk (s : State) (q : Sequencer) : Prop :=
  q.wp = passWp s ∧ q.hp = passHp s ∧ q.cwp = passCwp s ∧ q.chp = passChp s ∧ q.mbw = passWp s / 16 ∧
    q.mbh = passHp s / 16

/-- The kind code of an event (R262). -/
def WriterEvent.kind : WriterEvent → BitVec 3
  | .header => 0 | .qtables .. => 1 | .imageInfo .. => 2 | .huffman => 3 | .blockY _ => 4 | .blockU _ => 5
  | .blockV _ => 6 | .finish => 7

/-- The kind of the block event at index `e` of a macroblock (R252, R263, R264). -/
def blockKind (e : Nat) : BitVec 3 := if e < 4 then 4 else if e = 4 then 5 else 6

/-- The pending event, if any, has this kind. -/
def pendingKind (q : Sequencer) (k : BitVec 3) : Prop := ∀ ev, q.pending = some ev → ev.kind = k

/-- What each phase of a pass guarantees: the event offered is the one the order of R269 names, and the counters
count the block events accepted (R39). A pass rests in no state of phase TABLES: the tables are rebuilt before the
first event is offered (R361). The position in KERNEL_BUILD is the model's choice (notes/assumptions/21.md). -/
def sequencerOk (s : State) (q : Sequencer) : Prop :=
  match q.phase with
  | .tables => False
  | .hdrEvents => q.hdr ≤ 3 ∧ s.blkCount = 0 ∧ s.mbCount = 0 ∧ pendingKind q (BitVec.ofNat 3 q.hdr)
  | .prepare => s.blkCount = 0 ∧ s.mbCount = 0 ∧ q.pending = none
  | .kernelBuild =>
    s.blkCount = 0 ∧ s.mbCount = 0 ∧ q.pending = none ∧ gridOk s q ∧ q.mx = 0 ∧ q.my = 0 ∧ q.e = 0
  | .blocks =>
    s.kvalid = true ∧ s.korder = 8 ∧ gridOk s q ∧ q.mx < q.mbw ∧ q.my < q.mbh ∧ q.e ≤ 5 ∧
      s.blkCount.toNat = 6 * (q.my * q.mbw + q.mx) + q.e ∧ s.mbCount.toNat = q.my * q.mbw + q.mx ∧
      pendingKind q (blockKind q.e)
  | .finishing =>
    s.kvalid = true ∧ s.korder = 8 ∧ gridOk s q ∧ s.blkCount.toNat = 6 * (q.mbw * q.mbh) ∧
      s.mbCount.toNat = q.mbw * q.mbh ∧ pendingKind q 7

/-- Sequencer state is held only while an ENCODE that passed its checks runs (R251), with the tables of its quality
built (R254). -/
def PassOk (s : State) : Prop :=
  ∀ q, s.seq = some q →
    s.busy = true ∧ decode (commandWord s) = .ok .encode ∧ encodeCheck s = none ∧ s.qvalid = true ∧
      tablesOf s (aQuality s) ∧ sequencerOk s q

/-- The invariant of the machine. -/
structure State.Inv (s : State) : Prop where
  params : s.params.wf
  memory : MemoryOk s
  kernel : KernelOk s
  tables : TablesOk s
  status : StatusOk s
  pass : PassOk s

/-- The states a run reaches from reset, whatever its environment does: the moves listed at the start are its own. -/
inductive Reachable (p : Params) : State → Prop where
  | start (moves : List Move) : Reachable p { State.resetWith p with moves := moves }
  | step {s t : State} : Reachable p s → step s = .next t → Reachable p t

/-- A byte no host write raced with while the running command was busy (R94). -/
def raceFree (s : State) (b : Buffer) : Prop := ∀ a, b.base ≤ a → a < b.base + b.len → a ∉ s.raced

/-- Memory agrees everywhere outside a buffer. -/
def sameOutside (b : Buffer) (s t : State) : Prop :=
  ∀ a, ¬(b.base ≤ a ∧ a < b.base + b.len) → Memory.read t.mem a = Memory.read s.mem a

/-- A padded luma sample of the pass, from the bytes of the Y plane (R226, R252, R257). -/
def specLuma (s : State) (x y : Nat) : Int :=
  ((Memory.read s.mem (aSrc0 s + min y (aHeight s - 1) * aWidth s + min x (aWidth s - 1))).toNat : Int) - 128

/-- A padded chroma sample, from the bytes of the plane at `base` (R226, R252). -/
def specChroma (s : State) (base x y : Nat) : Int :=
  (Memory.read s.mem (base + min y (chromaHeight s - 1) * chromaWidth s + min x (chromaWidth s - 1))).toInt

/-- The block events of macroblock (mx, my), in the order of R252. -/
def specMacroblock (s : State) (mx my : Nat) : List WriterEvent :=
  ((List.range 4).map fun b =>
    .blockY (code (kernelOf 8) (fun r c => specLuma s (16 * mx + 8 * (b % 2) + c) (16 * my + 8 * (b / 2) + r))
      (scaleTable s.params.baseLuma (aQuality s)))) ++
  [.blockU (code (kernelOf 8) (fun r c => specChroma s (aSrc1 s) (8 * mx + c) (8 * my + r))
      (scaleTable s.params.baseChroma (aQuality s))),
    .blockV (code (kernelOf 8) (fun r c => specChroma s (aSrc2 s) (8 * mx + c) (8 * my + r))
      (scaleTable s.params.baseChroma (aQuality s)))]

/-- The whole event stream of a pass (R252, R269). -/
def specStream (s : State) : List WriterEvent :=
  [.header,
    .qtables (zigzagTable (scaleTable s.params.baseLuma (aQuality s)))
      (zigzagTable (scaleTable s.params.baseChroma (aQuality s))),
    .imageInfo (BitVec.ofNat 16 (aWidth s)) (BitVec.ofNat 16 (aHeight s)), .huffman] ++
  ((List.range (passHp s / 16)).flatMap fun my =>
    (List.range (passWp s / 16)).flatMap fun mx => specMacroblock s mx my) ++ [.finish]

/-- The moves of a pass whose sink accepts every event at once: the core's step that runs ENCODE, the answers to the
header events, the PREPARE and KERNEL_BUILD steps, an offer and an answer for each block, and FINISH. -/
def acceptingPass (s : State) : List Move :=
  [.core, .sink .accept, .core, .sink .accept, .core, .sink .accept, .core, .sink .accept, .core, .core] ++
    (List.range (6 * (passWp s / 16) * (passHp s / 16))).flatMap (fun _ => [.core, .sink .accept]) ++
    [.core, .sink .accept]

/-- The state with one more move, the next to be taken. -/
def withMove (m : Move) (s : State) : State := { s with moves := m :: s.moves }

/-- An aligned 32-bit host write to the CSR at an offset. -/
def csrw (off : BitVec 12) (v : Word) : Move := .host (.csrWrite off 4 v)

/-- An aligned 32-bit host read of the CSR at an offset. -/
def csrr (off : BitVec 12) : Move := .host (.csrRead off 4)

/-- What a command that ends with an error leaves (R310): nothing but STATUS differs. -/
def errorEnd (c : ErrorCode) (s : State) : Out :=
  .next { s with busy := false, done := true, err := true, errCode := c, seq := none }

/-- A state whose command has completed without error (R309), nothing else changed. -/
def completed (s : State) : State := { s with busy := false, done := true, seq := none }

/-- `len` bytes at `base` lie in data memory (R88). -/
def fits (s : State) (base len : Nat) : Prop := len = 0 ∨ base + len ≤ s.params.memSize

/-- Two buffers share no byte (R89). -/
def apart (b1 l1 b2 l2 : Nat) : Prop := l1 = 0 ∨ l2 = 0 ∨ b2 + l2 ≤ b1 ∨ b1 + l1 ≤ b2

/-- An accepted ENCODE, before the core's first step of it, that passes the checks of R252, its sizes and planes in
range, with no race. -/
structure EncodeReady (s : State) : Prop where
  busy : s.busy = true
  fresh : s.seq = none
  word : decode (commandWord s) = .ok .encode
  noRace : s.raced = []
  width : 2 ≤ aWidth s ∧ aWidth s ≤ 65535
  height : 2 ≤ aHeight s ∧ aHeight s ≤ 65535
  luma : fits s (aSrc0 s) (aWidth s * aHeight s)
  u : fits s (aSrc1 s) (aWidth s / 2 * (aHeight s / 2))
  v : fits s (aSrc2 s) (aWidth s / 2 * (aHeight s / 2))

/-- The buffers a command writes in data memory, at the addresses its latched arguments give when it runs (R160, R190,
R212, R227, R232; R113 gives the others none). -/
def storedBuffers (i : Instr) (s : State) : List Buffer :=
  match i with
  | .xform | .xformLs => [xformDst s]
  | .quantY | .quantC => [quantBuffer s]
  | .zigzagB => [zigzagBlockBuffer true s]
  | .zigzagT => [zigzagTableBuffer true s]
  | .zigzagBT => [zigzagBlockBuffer true s, zigzagTableBuffer true s]
  | .extend => [extendDst s]
  | .crop => [cropDst s]
  | .genbasis _ | .qscale _ | .qtbuild | .zigzag | .encode => []

/-- `qq(base, quality)` as R180 writes it, on integers with truncating division. -/
def specQq (base quality : Int) : Int :=
  let qc := min (max quality 1) 100
  let sf := if qc < 50 then Int.tdiv 5000 qc else 200 - 2 * qc
  min (max (Int.tdiv (base * sf + 50) 100) 1) 255

/-- The ZIGZAG form with these flags (R212). -/
def zigzagForm (b t : Bool) : Instr :=
  match b, t with
  | false, false => .zigzag
  | true, false => .zigzagB
  | false, true => .zigzagT
  | true, true => .zigzagBT

/-- The errors a command can end with (R301), WRITER_FAIL apart, which only a later step of ENCODE raises. -/
def possibleErrors : Instr → List ErrorCode
  | .genbasis _ => [.badArg]
  | .xform | .xformLs => [.noKernel, .addrRange, .overlap]
  | .qscale _ | .qtbuild => []
  | .quantY | .quantC => [.noQtable, .addrRange]
  | .zigzag => []
  | .zigzagB | .zigzagT => [.addrRange]
  | .zigzagBT => [.addrRange, .overlap]
  | .extend | .crop => [.badArg, .addrRange, .overlap]
  | .encode => [.badArg, .addrRange]

/-- A finite datum in binary64 form: at most 53 bits, normal unless at the lowest exponent, within the format. -/
def F64.valid : F64 → Prop
  | .fin _ m e => m < 2 ^ 53 ∧ (2 ^ 52 ≤ m ∨ e = 0) ∧ e ≤ 2045
  | _ => False

/-- The rational a finite datum stands for: ± m · 2^(e − 1074). -/
def F64.val : F64 → ℚ
  | .fin neg m e => (if neg then -1 else 1) * (m : ℚ) * (2 : ℚ) ^ ((e : ℤ) - 1074)
  | _ => 0

/-- The significand of a finite datum is even. -/
def F64.evenSignificand : F64 → Prop
  | .fin _ m _ => m % 2 = 0
  | _ => False

/-- `x` is the binary64 value nearest to the rational `r`, ties to even (R10). -/
def F64.nearest (x : F64) (r : ℚ) : Prop :=
  x.valid ∧ ∀ z : F64, z.valid → |x.val - r| ≤ |z.val - r| ∧ (|x.val - r| = |z.val - r| → z.val = x.val ∨ x.evenSignificand)

end Sys2Proof.Machine
end

