-- ==== Sys2Proof/Certificates/Slice0/Obligations.lean ====
section
/-! DEFINITION. The statements about the model, for the provers. Each docstring says which rule of spec/ it formalises. -/

open Sys2Proof Sys2Proof.Machine

/-! ## Encoding and decoding (spec/30_encoding.md) -/

/-- R110 to R116: decoding the word of a well-formed command gives the command back, with every operand at every
value the A field admits. -/
def Obligations.DecodeOfEncode : Prop := ∀ i : Instr, i.WellFormed → decode (encode i) = .ok i

/-- R110 to R116: a word that decodes is the word of the command it decodes to, so no two words name one command and
no bit of a legal word is ignored. -/
def Obligations.EncodeOfDecode : Prop := ∀ (w : Word) (i : Instr), decode w = .ok i → i.WellFormed ∧ encode i = w

/-- R116: the words the table of the assembler syntax lists. -/
def Obligations.AssemblerWordsDecode : Prop :=
  decode 0x00000801#32 = .ok (.genbasis 8) ∧ decode 0x00000002#32 = .ok .xform ∧
    decode 0x00000102#32 = .ok .xformLs ∧ decode 0x00001003#32 = .ok (.qscale 16) ∧
    decode 0x00000004#32 = .ok .qtbuild ∧ decode 0x00000005#32 = .ok .quantY ∧ decode 0x00000105#32 = .ok .quantC ∧
    decode 0x00000006#32 = .ok .zigzag ∧ decode 0x00000106#32 = .ok .zigzagB ∧ decode 0x00000206#32 = .ok .zigzagT ∧
    decode 0x00000306#32 = .ok .zigzagBT ∧ decode 0x00000007#32 = .ok .extend ∧ decode 0x00000008#32 = .ok .crop ∧
    decode 0x00000009#32 = .ok .encode

/-- R115: which words are illegal, that they end with ILLEGAL_CMD and no other effect, that `GENBASIS n` with n = 0 or
n > 8 is well-formed and ends with BAD_ARG, and that every A is legal for QSCALE. -/
def Obligations.IllegalWordsEndWithIllegalCmd : Prop :=
  (∀ w : Word, (∃ e, decode w = .error e) ↔
      (opField w = 0x00 ∨ 0x0A ≤ (opField w).toNat ∨ rsvField w ≠ 0 ∨
        ((opField w = 0x02 ∨ opField w = 0x05) ∧ (aField w).extractLsb' 1 7 ≠ 0) ∨
        (opField w = 0x06 ∧ (aField w).extractLsb' 2 6 ≠ 0) ∨
        ((opField w = 0x04 ∨ opField w = 0x07 ∨ opField w = 0x08 ∨ opField w = 0x09) ∧ aField w ≠ 0))) ∧
    (∀ (s : State) (e : Illegal), s.busy = true → s.seq = none → decode (commandWord s) = .error e →
      step (withMove .core s) = errorEnd .illegalCmd s) ∧
    (∀ (n : Nat) (s : State), n = 0 ∨ 8 < n →
      (n < 256 → decode (assemble 0x01 (BitVec.ofNat 8 n)) = .ok (.genbasis n)) ∧
        exec (.genbasis n) s = errorEnd .badArg s) ∧
    ∀ a : Byte, decode (assemble 0x03 a) = .ok (.qscale a.toNat)

/-! ## Acceptance, the core's step, completion (spec/60_exceptions.md) -/

/-- R306: when a command is accepted, the core's next step checks its word; an illegal word ends with ILLEGAL_CMD, a
legal one runs as its command, and nothing else surrounds it. That one step is the whole
command is the model's choice, which R360 allows (notes/assumptions/10.md); so is that the step is the core's own when no
move is listed (notes/assumptions/14.md). -/
def Obligations.StepRunsTheAcceptedCommand : Prop :=
  ∀ s : State, s.busy = true → s.seq = none →
    (∀ i, decode (commandWord s) = .ok i →
      step (withMove .core s) = exec i s ∧ (s.moves = [] → step s = exec i s)) ∧
    ∀ e, decode (commandWord s) = .error e → step (withMove .core s) = errorEnd .illegalCmd s

/-- R305, R306, R110, and how `withFetchWord` stands for them (notes/assumptions/1.md): the host's write of a
well-formed command's word to CMD of an idle block, then the core's step, runs that command on the accepted state; so does
the word that `withFetchWord` places. -/
def Obligations.WrittenCommandRuns : Prop :=
  ∀ (s : State) (i : Instr), i.WellFormed →
    (s.busy = false → step (withMove (csrw 0x008 (encode i)) (withMove .core s)) =
      .next (withMove .core (accept (encode i) s))) ∧
    step (withMove .core (accept (encode i) s)) = exec i (accept (encode i) s) ∧
    step (s.withFetchWord 32 (encode i).toNat) = exec i (accept (encode i) s)

/-- R33, R305: a CMD write to an idle block is accepted: the word stored, `op` and `arg` taken from it, every argument
CSR latched, BUSY set, DONE, ERR and ERRCODE cleared, so that IRQ drops; OVR, KVALID and QVALID keep their values, and so
does everything else but the model's own race and draw records. A CMD write to a busy block only sets OVR. A read of
CMD returns the last accepted word, 0 after reset. -/
def Obligations.CmdWriteIsAcceptedOrDropped : Prop :=
  ∀ (s : State) (w : Word),
    (s.busy = false → ∃ t, step (withMove (csrw 0x008 w) s) = .next t ∧ irq t = false ∧
      t = { s with
        cmd := w, op := w.extractLsb' 0 8, arg := w.extractLsb' 8 8, latched := s.csr, busy := true, done := false,
        err := false, errCode := .noError, seq := none, raced := [], draws := t.draws }) ∧
    (s.busy = true → step (withMove (csrw 0x008 w) s) = .next { s with ovr := true }) ∧
    csrRead s 0x008 4 = s.cmd ∧ ∀ p, csrRead (State.resetWith p) 0x008 4 = 0

/-- R314: a dropped CMD write sets OVR and changes nothing else; OVR then stays 1 until a write of 1 to STATUS bit 3, or
reset. -/
def Obligations.OvrStaysUntilCleared : Prop :=
  (∀ (s : State) (w : Word), s.busy = true → step (withMove (csrw 0x008 w) s) = .next { s with ovr := true }) ∧
    ∀ s t : State, step s = .next t → s.ovr = true → t.ovr = false →
      (∃ v rest, s.moves = csrw 0x00C v :: rest ∧ v.getLsbD 3 = true) ∨ ∃ rest, s.moves = .reset :: rest

/-- R307: a command that fails a check changes nothing but STATUS. -/
def Obligations.FailedCheckChangesOnlyStatus : Prop :=
  ∀ (i : Instr) (s t : State), exec i s = .next t → s.errCode = .noError → t.errCode ≠ .noError →
    t = { s with busy := false, done := true, err := true, errCode := t.errCode, seq := none }

/-- R301: the errors each command can end with. -/
def Obligations.CommandsEndWithTheirOwnErrors : Prop :=
  ∀ (i : Instr) (s t : State), exec i s = .next t → s.errCode = .noError →
    t.errCode = .noError ∨ t.errCode ∈ possibleErrors i

/-- R309, R310: a step that ends a command, other than reset, leaves DONE = 1, and ERR = 1 with a code or ERR = 0 with
none. The premise is the model's invariant `StatusOk`. -/
def Obligations.EndOfCommandIsReported : Prop :=
  ∀ s t : State, StatusOk s → step s = .next t → s.busy = true → t.busy = false → (¬∃ rest, s.moves = .reset :: rest) →
    t.done = true ∧ t.seq = none ∧
      ((t.err = true ∧ t.errCode ≠ .noError) ∨ (t.err = false ∧ t.errCode = .noError))

/-- R342, R308, R37: no host access ends the running command, changes its arguments or moves it on. BUSY, ERR, ERRCODE,
KVALID, QVALID, CMD, op, arg, the latched arguments, the RESULT registers and counters, the kernel, all four tables, the
sequencer state and the event stream stay; so does everything but DONE, OVR, IEN, the argument CSRs and data memory, which
the host may write, and the model's own race, read and draw records; and only a data write touches data memory. (Such a
write may still change what the command computes, R94.) -/
def Obligations.HostAccessNeverStopsACommand : Prop :=
  ∀ (s t : State) (a : HostAccess), s.busy = true → step (withMove (.host a) s) = .next t →
    t.busy = true ∧
      t = { s with
        done := t.done, ovr := t.ovr, doneIe := t.doneIe, csr := t.csr, mem := t.mem, raced := t.raced,
        hostData := t.hostData, draws := t.draws } ∧
      ((∀ addr v, a ≠ .memWrite addr v) → t.mem = s.mem ∧ t.raced = s.raced)

/-- R38, R41, R42, R113: each command writes only the state its row of R113 lists. In particular only QSCALE and
EXTEND write a RESULT register, only GENBASIS and ENCODE the kernel, only QTBUILD and ENCODE the tables, and only XFORM,
QUANT, ZIGZAG, EXTEND and CROP data memory, each inside the buffers of `storedBuffers`, at the addresses its latched
arguments give; every other byte reads as before. (ENCODE's kernel comes in a later step of its pass.) -/
def Obligations.CommandsWriteOnlyTheirOwnState : Prop :=
  ∀ (i : Instr) (s t : State), exec i s = .next t →
    (t.params = s.params ∧ t.cmd = s.cmd ∧ t.op = s.op ∧ t.arg = s.arg ∧ t.csr = s.csr ∧ t.latched = s.latched ∧
      t.ovr = s.ovr ∧ t.doneIe = s.doneIe ∧ t.moves = s.moves ∧ t.hostData = s.hostData ∧ t.raced = s.raced) ∧
    ((∀ n, i ≠ .genbasis n) → t.kernel = s.kernel ∧ t.korder = s.korder ∧ t.kvalid = s.kvalid) ∧
    (i ≠ .qtbuild → i ≠ .encode → t.qtLuma = s.qtLuma ∧ t.qtChroma = s.qtChroma ∧ t.qtzLuma = s.qtzLuma ∧
      t.qtzChroma = s.qtzChroma ∧ t.qvalid = s.qvalid) ∧
    ((∀ b, i ≠ .qscale b) → i ≠ .extend → t.result0 = s.result0) ∧
    (i ≠ .extend → t.result1 = s.result1) ∧
    (i ≠ .encode → t.mbCount = s.mbCount ∧ t.blkCount = s.blkCount ∧ t.stream = s.stream) ∧
    (storedBuffers i s = [] → t.mem = s.mem) ∧
    ∀ a, (∀ b ∈ storedBuffers i s, ¬(b.base ≤ a ∧ a < b.base + b.len)) → Memory.read t.mem a = Memory.read s.mem a

/-! ## The CSR window (spec/10_state.md) -/

/-- R34, R300: STATUS reads its fields at their bits, and 0 above; and the number of each error code. -/
def Obligations.StatusReadsItsFields : Prop :=
  (∀ s : State,
    (csrRead s 0x00C 4).getLsbD 0 = s.busy ∧ (csrRead s 0x00C 4).getLsbD 1 = s.done ∧
      (csrRead s 0x00C 4).getLsbD 2 = s.err ∧ (csrRead s 0x00C 4).getLsbD 3 = s.ovr ∧
      (csrRead s 0x00C 4).extractLsb' 4 4 = s.errCode.code ∧ (csrRead s 0x00C 4).getLsbD 8 = s.kvalid ∧
      (csrRead s 0x00C 4).getLsbD 9 = s.qvalid ∧ (csrRead s 0x00C 4).extractLsb' 10 22 = 0) ∧
    ErrorCode.noError.code = 0 ∧ ErrorCode.illegalCmd.code = 1 ∧ ErrorCode.badArg.code = 2 ∧
      ErrorCode.noKernel.code = 3 ∧ ErrorCode.noQtable.code = 4 ∧ ErrorCode.addrRange.code = 5 ∧
      ErrorCode.overlap.code = 6 ∧ ErrorCode.writerFail.code = 7

/-- R35: a write to STATUS clears DONE by bit 1 and OVR by bit 3, and nothing else. -/
def Obligations.StatusWriteClearsDoneAndOvr : Prop :=
  ∀ (s : State) (v : Word),
    step (withMove (csrw 0x00C v) s) =
      .next { s with done := s.done && !v.getLsbD 1, ovr := s.ovr && !v.getLsbD 3 }

/-- R36: IEN holds bit 0 alone, and IRQ is the level DONE AND DONE_IE. -/
def Obligations.InterruptLevel : Prop :=
  ∀ (s : State) (v : Word),
    step (withMove (csrw 0x010 v) s) = .next { s with doneIe := v.getLsbD 0 } ∧
      csrRead s 0x010 4 = (if s.doneIe then 1 else 0) ∧ (irq s = true ↔ s.done = true ∧ s.doneIe = true)

/-- R320, R321: IRQ rises only when a command ends, or when the host enables it while DONE = 1. The premise is the part of
the model's invariant that a pass runs only while BUSY. -/
def Obligations.InterruptRisesOnlyAtCompletion : Prop :=
  ∀ s t : State, PassOk s → step s = .next t → irq s = false → irq t = true →
    (s.busy = true ∧ t.busy = false ∧ t.done = true) ∨
      (s.done = true ∧ ∃ v rest, s.moves = csrw 0x010 v :: rest ∧ v.getLsbD 0 = true)

/-- R37: each argument CSR holds exactly the last value written, busy or not, and a write to one leaves the others, and
everything else, alone. -/
def Obligations.ArgumentCsrHoldsLastWrite : Prop :=
  ∀ (s : State) (v : Word),
    ∀ o ∈ [0x020#12, 0x024#12, 0x028#12, 0x02C#12, 0x030#12, 0x034#12, 0x038#12, 0x03C#12, 0x040#12, 0x044#12, 0x048#12],
      ∃ t, step (withMove (csrw o v) s) = .next t ∧ csrRead t o 4 = v ∧ t = { s with csr := t.csr } ∧
        ∀ o' ∈ [0x020#12, 0x024#12, 0x028#12, 0x02C#12, 0x030#12, 0x034#12, 0x038#12, 0x03C#12, 0x040#12, 0x044#12, 0x048#12],
          o' ≠ o → csrRead t o' 4 = csrRead s o' 4

/-- R37, R44: only a host write or reset changes an argument CSR, and only acceptance or reset the latched copy. -/
def Obligations.ArgumentsChangeOnlyByTheHost : Prop :=
  ∀ s t : State, step s = .next t →
    (t.csr = s.csr ∨ (∃ o b v rest, s.moves = .host (.csrWrite o b v) :: rest) ∨ ∃ rest, s.moves = .reset :: rest) ∧
    (t.latched = s.latched ∨ (s.busy = false ∧ ∃ v rest, s.moves = csrw 0x008 v :: rest) ∨
      ∃ rest, s.moves = .reset :: rest)

/-- R30, R315: an access of any other width or alignment reads 0, and its write is ignored. -/
def Obligations.OddCsrAccessIsIgnored : Prop :=
  ∀ (s : State) (off : BitVec 12) (bytes : Nat) (v : Word), bytes ≠ 4 ∨ off.toNat % 4 ≠ 0 →
    step (withMove (.host (.csrWrite off bytes v)) s) = .next s ∧
      ∃ t, step (withMove (.host (.csrRead off bytes)) s) = .next t ∧ t.hostData = 0 ∧
        t = { s with hostData := t.hostData, draws := t.draws }

/-- R31, R32, R38 to R40, R43, R315: in every state ID and VERSION read their constants, and RESULT0, RESULT1, MBCOUNT,
BLKCOUNT and KORDER their fields, at their offsets; a reserved offset reads 0; a write to any offset but CMD, STATUS, IEN
and the argument CSRs is ignored; and the host's read of the window returns `csrRead` and changes nothing else but the
model's own read and draw records. -/
def Obligations.ReservedAndReadOnlyOffsets : Prop :=
  ∀ s : State,
    (csrRead s 0x000 4 = 0x44435442 ∧ csrRead s 0x004 4 = 0x00000001 ∧ csrRead s 0x060 4 = s.result0 ∧
      csrRead s 0x064 4 = s.result1 ∧ csrRead s 0x068 4 = s.mbCount ∧ csrRead s 0x06C 4 = s.blkCount ∧
      csrRead s 0x070 4 = s.korder) ∧
    (∀ (off : BitVec 12) (bytes : Nat), ∃ t, step (withMove (.host (.csrRead off bytes)) s) = .next t ∧
      t.hostData = csrRead s off bytes ∧ t = { s with hostData := t.hostData, draws := t.draws }) ∧
    ∀ (off : BitVec 12) (v : Word), off.toNat % 4 = 0 →
      ((off.toNat ∈ [0x014, 0x018, 0x01C, 0x04C, 0x050, 0x054, 0x058, 0x05C] ∨
          (0x074 ≤ off.toNat ∧ off.toNat < 0x100) ∨ 0x400 ≤ off.toNat) → csrRead s off 4 = 0) ∧
      ((off.toNat < 0x008 ∨ (0x010 < off.toNat ∧ off.toNat < 0x020) ∨ 0x048 < off.toNat) →
        step (withMove (csrw off v) s) = .next s)

/-- R31, R48, R340: what the registers read after reset, for any parameters. -/
def Obligations.ResetRegisterValues : Prop :=
  ∀ p : Params,
    csrRead (State.resetWith p) 0x000 4 = 0x44435442 ∧ csrRead (State.resetWith p) 0x004 4 = 0x00000001 ∧
      (∀ o ∈ [0x008#12, 0x00C#12, 0x010#12, 0x020#12, 0x024#12, 0x028#12, 0x02C#12, 0x030#12, 0x034#12, 0x038#12, 0x03C#12,
        0x040#12, 0x044#12, 0x048#12, 0x060#12, 0x064#12, 0x068#12, 0x06C#12, 0x070#12],
        csrRead (State.resetWith p) o 4 = 0) ∧
      irq (State.resetWith p) = false ∧ (State.resetWith p).seq = none

/-- R43: the table windows map bytes to words little-endian, while their contents are valid and not being rebuilt;
writes to them are ignored; a read has no effect whatever it returns. -/
def Obligations.TableWindowsReadLittleEndian : Prop :=
  ∀ s : State,
    (∀ m < 16, s.qvalid = true → rebuildsTables s = false →
      csrRead s (BitVec.ofNat 12 (0x100 + 4 * m)) 4 =
        entry s.qtLuma (4 * m + 3) ++ (entry s.qtLuma (4 * m + 2) ++ (entry s.qtLuma (4 * m + 1) ++ entry s.qtLuma (4 * m))) ∧
      csrRead s (BitVec.ofNat 12 (0x140 + 4 * m)) 4 =
        entry s.qtChroma (4 * m + 3) ++
          (entry s.qtChroma (4 * m + 2) ++ (entry s.qtChroma (4 * m + 1) ++ entry s.qtChroma (4 * m))) ∧
      csrRead s (BitVec.ofNat 12 (0x180 + 4 * m)) 4 =
        entry s.qtzLuma (4 * m + 3) ++
          (entry s.qtzLuma (4 * m + 2) ++ (entry s.qtzLuma (4 * m + 1) ++ entry s.qtzLuma (4 * m))) ∧
      csrRead s (BitVec.ofNat 12 (0x1C0 + 4 * m)) 4 =
        entry s.qtzChroma (4 * m + 3) ++
          (entry s.qtzChroma (4 * m + 2) ++ (entry s.qtzChroma (4 * m + 1) ++ entry s.qtzChroma (4 * m)))) ∧
    (∀ i < 8, ∀ j < 8, s.kvalid = true → rebuildsKernel s = false →
      csrRead s (BitVec.ofNat 12 (0x200 + 8 * (8 * i + j))) 4 = (kernelAt s.kernel i j).extractLsb' 0 32 ∧
      csrRead s (BitVec.ofNat 12 (0x204 + 8 * (8 * i + j))) 4 = (kernelAt s.kernel i j).extractLsb' 32 32) ∧
    ∀ off : BitVec 12, 0x100 ≤ off.toNat → off.toNat < 0x400 →
      (∀ v, step (withMove (csrw off v) s) = .next s) ∧
        ∃ t, step (withMove (csrr off) s) = .next t ∧ t = { s with hostData := t.hostData, draws := t.draws }

/-! ## DCT basis generation (spec/40_dct_basis.md) -/

/-- R141: `GENBASIS n` for 1 ≤ n ≤ 8 stores the order-n kernel in the top-left n×n corner and +0.0 in every other entry,
KORDER = n and KVALID = 1, completes, and writes nothing else. -/
def Obligations.GenbasisStoresTheKernel : Prop :=
  ∀ (n : Nat) (s : State), 1 ≤ n → n ≤ 8 →
    ∃ t, exec (.genbasis n) s = .next t ∧
      (∀ i < 8, ∀ j < 8, kernelAt t.kernel i j = if i < n ∧ j < n then kval n i j else 0#64) ∧
      t.korder.toNat = n ∧ t.kvalid = true ∧
      t = completed { s with kernel := t.kernel, korder := t.korder, kvalid := true }

/-- R140, R142: row 0 of every order is the binary64 value nearest to sqrt(1/N), and an entry is +0.0 exactly when i ≥ 1
and (2j+1)·i is an odd multiple of N. -/
def Obligations.KernelRowZeroAndExactZeros : Prop :=
  ∀ n : Nat, 1 ≤ n → n ≤ 8 →
    (∀ j < n, (F64.ofBits (kval n 0 j)).valid ∧ ∀ z : F64, z.valid →
      |(((F64.ofBits (kval n 0 j)).val : ℚ) : ℝ) - Real.sqrt (1 / n)| ≤ |((z.val : ℚ) : ℝ) - Real.sqrt (1 / n)|) ∧
    ∀ i < n, ∀ j < n, kval n i j = 0#64 ↔ 1 ≤ i ∧ ∃ k, (2 * j + 1) * i = (2 * k + 1) * n

/-- R140, R142: every kernel is the correctly rounded one: for each order N from 1 to 8, each entry is the binary64 value
nearest to `sqrt(1/N)` in row 0 and to `sqrt(2/N) · cos((2j+1)·i·π/(2N))` in the others. -/
def Obligations.KernelsAreCorrectlyRounded : Prop :=
  ∀ n : Nat, 1 ≤ n → n ≤ 8 → ∀ i < n, ∀ j < n,
    (F64.ofBits (kval n i j)).valid ∧ ∀ z : F64, z.valid →
      |(((F64.ofBits (kval n i j)).val : ℚ) : ℝ) -
          (if i = 0 then Real.sqrt (1 / n) else Real.sqrt (2 / n) * Real.cos ((2 * j + 1) * i * Real.pi / (2 * n)))| ≤
        |((z.val : ℚ) : ℝ) -
          (if i = 0 then Real.sqrt (1 / n) else Real.sqrt (2 / n) * Real.cos ((2 * j + 1) * i * Real.pi / (2 * n)))|

/-! ## Arithmetic and the forward transform (spec/00_scope.md R10, spec/41_block_transform.md) -/

/-- R10: `add64` and `mul64` give the binary64 value nearest to the exact result, ties to even, for every two finite data
whose exact result is at most 2^1023 in magnitude (the largest finite datum is just under 2^1024). -/
def Obligations.AddAndMulRoundToNearestEven : Prop :=
  ∀ x y : F64, x.valid → y.valid →
    (|x.val + y.val| ≤ 2 ^ 1023 → (F64.add x y).nearest (x.val + y.val)) ∧
      (|x.val * y.val| ≤ 2 ^ 1023 → (F64.mul x y).nearest (x.val * y.val))

/-- R10, R163: `floor` is exact on every finite datum, and `round64(x)` is the floor of x + 0.5 rounded to binary64; with
the examples of R163. -/
def Obligations.RoundingOfTransformOutputs : Prop :=
  (∀ x : F64, x.valid → F64.floor x = ⌊x.val⌋ ∧ round64 x = ⌊(F64.add x F64.half).val⌋) ∧
    round64 (F64.ofBits 0x4004000000000000#64) = 3 ∧ round64 (F64.ofBits 0xC004000000000000#64) = -2 ∧
    round64 (F64.ofBits 0xBFE0000000000001#64) = -1

/-- R167: for N = 8 a block of one value v transforms to 8·v in position (0, 0) and 0 everywhere else. -/
def Obligations.ConstantBlockHasOnlyItsDc : Prop :=
  ∀ v : Int, -128 ≤ v → v ≤ 127 → ∀ i < 8, ∀ j < 8,
    dctEval 8 (kernelOf 8) (fun _ _ => v) i j = if i = 0 ∧ j = 0 then 8 * v else 0

/-- R164: for every block of i8 samples and every stored kernel, every output of the transform lies in [−1024, 1024], so
that its i16 store is exact; and the bound −1024 is reached. -/
def Obligations.TransformOutputsFit : Prop :=
  (∀ (n : Nat) (B : Nat → Nat → Int), 1 ≤ n → n ≤ 8 → (∀ r c, -128 ≤ B r c ∧ B r c ≤ 127) → ∀ u < n, ∀ v < n,
    -1024 ≤ dctEval n (kernelOf n) B u v ∧ dctEval n (kernelOf n) B u v ≤ 1024 ∧
      (BitVec.ofInt 16 (dctEval n (kernelOf n) B u v)).toInt = dctEval n (kernelOf n) B u v) ∧
    dctEval 8 (kernelOf 8) (fun _ _ => -128) 0 0 = -1024

/-- R160, R162, R168: XFORM and XFORM.LS with a kernel and with both buffers in range and apart complete, write the
transform of the block at a.SRC0 as i16 coefficients at a.DST, and change no other byte and no other state. The values
are stated for a buffer that no host write raced with (R94). -/
def Obligations.XformWritesTheTransform : Prop :=
  ∀ (i : Instr) (s : State), i = .xform ∨ i = .xformLs → s.kvalid = true →
    fits s (aSrc0 s) (kernelOrder s * kernelOrder s) → fits s (aDst s) (2 * (kernelOrder s * kernelOrder s)) →
    apart (aSrc0 s) (kernelOrder s * kernelOrder s) (aDst s) (2 * (kernelOrder s * kernelOrder s)) →
    ∃ t, exec i s = .next t ∧ t = completed { s with mem := t.mem } ∧
      sameOutside ⟨aDst s, 2 * (kernelOrder s * kernelOrder s)⟩ s t ∧
      (raceFree s ⟨aSrc0 s, kernelOrder s * kernelOrder s⟩ → raceFree s ⟨aDst s, 2 * (kernelOrder s * kernelOrder s)⟩ →
        ∀ u < kernelOrder s, ∀ v < kernelOrder s,
          Memory.read16 t.mem (aDst s + 2 * (u * kernelOrder s + v)) =
            BitVec.ofInt 16 (dctEval (kernelOrder s) s.kernel
              (fun r c => (Memory.read s.mem (aSrc0 s + r * kernelOrder s + c)).toInt) u v))

/-- R160, R302: XFORM's errors, in their order. -/
def Obligations.XformErrorsInOrder : Prop :=
  ∀ (i : Instr) (s : State), i = .xform ∨ i = .xformLs →
    (s.kvalid = false → exec i s = errorEnd .noKernel s) ∧
    (s.kvalid = true →
      ¬(fits s (aSrc0 s) (kernelOrder s * kernelOrder s) ∧ fits s (aDst s) (2 * (kernelOrder s * kernelOrder s))) →
      exec i s = errorEnd .addrRange s) ∧
    (s.kvalid = true → fits s (aSrc0 s) (kernelOrder s * kernelOrder s) →
      fits s (aDst s) (2 * (kernelOrder s * kernelOrder s)) →
      ¬apart (aSrc0 s) (kernelOrder s * kernelOrder s) (aDst s) (2 * (kernelOrder s * kernelOrder s)) →
      exec i s = errorEnd .overlap s)

/-! ## Quantization (spec/42_quantization.md) -/

/-- R180, R184: QSCALE sets RESULT0 to `qq(base, a.QUALITY)` for every base and every i32 quality, completes, and writes
nothing else. -/
def Obligations.QscaleScalesTheBase : Prop :=
  ∀ (b : Nat) (s : State), b ≤ 255 →
    exec (.qscale b) s = .next (completed { s with result0 := BitVec.ofInt 32 (specQq b (aQuality s)) })

/-- R180, R183: `qq` is the rule's own integer expression, every intermediate of which is small, and its properties. -/
def Obligations.QualityScalingFormula : Prop :=
  ∀ base : Nat, base ≤ 255 →
    (∀ q : Int, (qq base q : Int) = specQq base q ∧
      base * scaleFactor (clampQuality q) + 50 ≤ 255 * 5000 + 50) ∧
    (∀ q : Int, 1 ≤ qq base q ∧ qq base q ≤ 255) ∧
    (∀ q q' : Int, 1 ≤ q → q ≤ q' → q' ≤ 100 → qq base q' ≤ qq base q) ∧
    (∀ q : Int, q ≤ 1 → qq base q = qq base 1) ∧ (∀ q : Int, 100 ≤ q → qq base q = qq base 100) ∧
    (scaleFactor 50 = 100 ∧ qq base 50 = max base 1) ∧ (scaleFactor 100 = 0 ∧ qq base 100 = 1) ∧
    (scaleFactor 1 = 5000 ∧ (1 ≤ base → qq base 1 = min (50 * base) 255)) ∧
    ∀ q : Nat, 1 ≤ q → q < 50 → 100 < scaleFactor q

/-- R185: QTBUILD scales every entry of the two base tables by a.QUALITY, makes the two zigzag copies, sets QVALID,
completes, and writes nothing else. -/
def Obligations.QtbuildBuildsTheTables : Prop :=
  ∀ s : State, ∃ t, exec .qtbuild s = .next t ∧
    t = completed { s with
      qtLuma := t.qtLuma, qtChroma := t.qtChroma, qtzLuma := t.qtzLuma, qtzChroma := t.qtzChroma, qvalid := true } ∧
    (∀ k < 64, ((entry t.qtLuma k).toNat : Int) = specQq (entry s.params.baseLuma k).toNat (aQuality s) ∧
      ((entry t.qtChroma k).toNat : Int) = specQq (entry s.params.baseChroma k).toNat (aQuality s)) ∧
    ∀ k < 64, entry t.qtzLuma k = entry t.qtLuma (ZZ k) ∧ entry t.qtzChroma k = entry t.qtChroma (ZZ k)

/-- R191: `qround(c, q)` is the floor of c/q + 1/2, computed as `(2c + q) div (2q)`; ties go toward +∞. -/
def Obligations.QroundIsFloorOfQuotientPlusHalf : Prop :=
  (∀ (c : Int) (q : Nat), 1 ≤ q → q ≤ 255 →
    qround c q = ⌊(c : ℚ) / (q : ℚ) + 1 / 2⌋ ∧ qround c q = Int.fdiv (2 * c + q) (2 * q)) ∧
    qround 3 2 = 2 ∧ qround (-3) 2 = -1

/-- R192: a quantized i16 coefficient fits in i16, so that its store is exact; and a divisor of 1 leaves it unchanged
(R190). -/
def Obligations.QuantizedCoefficientFits : Prop :=
  ∀ (c : Coeff) (q : Nat), 1 ≤ q → q ≤ 255 →
    (BitVec.ofInt 16 (qround c.toInt q)).toInt = qround c.toInt q ∧ qround c.toInt 1 = c.toInt

/-- R190, R91: QUANT.Y and QUANT.C with tables built and the block in range complete, replace each coefficient c[k] at
a.SRC0 by the floor of (2c + Q) / 2Q, all reads first, and change no other byte and no other state. -/
def Obligations.QuantDividesTheBlockInPlace : Prop :=
  ∀ (i : Instr) (s : State) (Q : Vector Byte 64), (i = .quantY ∧ Q = s.qtLuma) ∨ (i = .quantC ∧ Q = s.qtChroma) →
    s.qvalid = true → fits s (aSrc0 s) 128 →
    ∃ t, exec i s = .next t ∧ t = completed { s with mem := t.mem } ∧ sameOutside ⟨aSrc0 s, 128⟩ s t ∧
      ∀ k < 64, raceFree s ⟨aSrc0 s + 2 * k, 2⟩ →
        Memory.read16 t.mem (aSrc0 s + 2 * k) =
          BitVec.ofInt 16 (Int.fdiv (2 * (Memory.read16 s.mem (aSrc0 s + 2 * k)).toInt + (entry Q k).toNat)
            (2 * (entry Q k).toNat))

/-! ## Zigzag (spec/43_zigzag.md) -/

/-- R210, R214: the 64 values of ZZ, which R210 takes from ITU-T T.81 and marks [from general knowledge, not in source]
(notes/assumptions/15.md). ZZ is a permutation of 0..63 that begins at 0 and ends at 63; gathering the sequence 0..63 gives
ZZ itself; and consecutive scan positions are adjacent in the grid. -/
def Obligations.ZigzagIsAPermutation : Prop :=
  (List.range 64).map ZZ =
    [0, 1, 8, 16, 9, 2, 3, 10] ++ [17, 24, 32, 25, 18, 11, 4, 5] ++ [12, 19, 26, 33, 40, 48, 41, 34] ++
      [27, 20, 13, 6, 7, 14, 21, 28] ++ [35, 42, 49, 56, 57, 50, 43, 36] ++ [29, 22, 15, 23, 30, 37, 44, 51] ++
      [58, 59, 52, 45, 38, 31, 39, 46] ++ [53, 60, 61, 54, 47, 55, 62, 63] ∧
  (∀ n < 64, ∃ i < 64, ZZ i = n) ∧ (∀ i < 64, ZZ i < 64) ∧ (∀ i < 64, ∀ j < 64, ZZ i = ZZ j → i = j) ∧ ZZ 0 = 0 ∧
    ZZ 63 = 63 ∧
    (∀ i < 64, entry (zigzagTable (Vector.ofFn fun n => BitVec.ofNat 8 n.val)) i = BitVec.ofNat 8 (ZZ i)) ∧
    ∀ i < 63, ZZ i / 8 ≤ ZZ (i + 1) / 8 + 1 ∧ ZZ (i + 1) / 8 ≤ ZZ i / 8 + 1 ∧ ZZ i % 8 ≤ ZZ (i + 1) % 8 + 1 ∧
      ZZ (i + 1) % 8 ≤ ZZ i % 8 + 1

/-- R211, R212, R91: each ZIGZAG form whose selected operands are in range and apart completes; the block takes the
gather `result[i] = source[ZZ[i]]` if B = 1, and the table likewise if T = 1; every other byte and all other state are
unchanged. -/
def Obligations.ZigzagGathersInPlace : Prop :=
  ∀ (b t : Bool) (s : State),
    fits s (aSrc0 s) (if b then 128 else 0) → fits s (aSrc1 s) (if t then 64 else 0) →
    apart (aSrc0 s) (if b then 128 else 0) (aSrc1 s) (if t then 64 else 0) →
    ∃ u, exec (zigzagForm b t) s = .next u ∧ u = completed { s with mem := u.mem } ∧
      (∀ a, ¬(b = true ∧ aSrc0 s ≤ a ∧ a < aSrc0 s + 128) → ¬(t = true ∧ aSrc1 s ≤ a ∧ a < aSrc1 s + 64) →
        Memory.read u.mem a = Memory.read s.mem a) ∧
      (b = true → ∀ k < 64, raceFree s ⟨aSrc0 s + 2 * k, 2⟩ → raceFree s ⟨aSrc0 s + 2 * ZZ k, 2⟩ →
        Memory.read16 u.mem (aSrc0 s + 2 * k) = Memory.read16 s.mem (aSrc0 s + 2 * ZZ k)) ∧
      (t = true → ∀ k < 64, raceFree s ⟨aSrc1 s + k, 1⟩ → raceFree s ⟨aSrc1 s + ZZ k, 1⟩ →
        Memory.read u.mem (aSrc1 s + k) = Memory.read s.mem (aSrc1 s + ZZ k))

/-- R190, R212, R302: QUANT's and ZIGZAG's errors, in their order; a ZIGZAG operand that is not selected is not
checked. -/
def Obligations.QuantAndZigzagErrorsInOrder : Prop :=
  (∀ (i : Instr) (s : State), i = .quantY ∨ i = .quantC →
    (s.qvalid = false → exec i s = errorEnd .noQtable s) ∧
    (s.qvalid = true → ¬fits s (aSrc0 s) 128 → exec i s = errorEnd .addrRange s)) ∧
  ∀ (b t : Bool) (s : State),
    (¬(fits s (aSrc0 s) (if b then 128 else 0) ∧ fits s (aSrc1 s) (if t then 64 else 0)) →
      exec (zigzagForm b t) s = errorEnd .addrRange s) ∧
    (fits s (aSrc0 s) (if b then 128 else 0) → fits s (aSrc1 s) (if t then 64 else 0) →
      ¬apart (aSrc0 s) (if b then 128 else 0) (aSrc1 s) (if t then 64 else 0) →
      exec (zigzagForm b t) s = errorEnd .overlap s)

/-! ## Border extension and cropping (spec/44_border_extender.md) -/

/-- R230: the output size is `(W div N + 1)·N`, the smallest multiple of N strictly greater than W, and at most 131070
for W, N ≤ 65535. -/
def Obligations.PaddedSizeClosedForm : Prop :=
  ∀ w n : Nat, 1 ≤ n →
    paddedDim w n = (w / n + 1) * n ∧ w < paddedDim w n ∧ (∀ k, w < k * n → paddedDim w n ≤ k * n) ∧
      (w ≤ 65535 → n ≤ 65535 → paddedDim w n ≤ 131070)

/-- R226, R227: EXTEND with its arguments in range, enough capacity and its buffers in range and apart completes, writes
out(x, y) = in(min(x, W−1), min(y, H−1)), reports Wo and Ho, and changes no other byte and no other state. -/
def Obligations.ExtendReplicatesTheEdges : Prop :=
  ∀ (s : State) (Wo Ho : Nat), 1 ≤ aWidth s → aWidth s ≤ 65535 → 1 ≤ aHeight s → aHeight s ≤ 65535 → 1 ≤ aBsize s →
    aBsize s ≤ 65535 → Wo = aWidth s + (aBsize s - aWidth s % aBsize s) →
    Ho = aHeight s + (aBsize s - aHeight s % aBsize s) → Wo * Ho ≤ aDstlen s →
    fits s (aSrc0 s) (aWidth s * aHeight s) → fits s (aDst s) (Wo * Ho) →
    apart (aSrc0 s) (aWidth s * aHeight s) (aDst s) (Wo * Ho) →
    ∃ t, exec .extend s = .next t ∧
      t = completed { s with mem := t.mem, result0 := BitVec.ofNat 32 Wo, result1 := BitVec.ofNat 32 Ho } ∧
      sameOutside ⟨aDst s, Wo * Ho⟩ s t ∧
      ∀ x < Wo, ∀ y < Ho,
        aDst s + y * Wo + x ∉ s.raced →
        aSrc0 s + min y (aHeight s - 1) * aWidth s + min x (aWidth s - 1) ∉ s.raced →
        Memory.read t.mem (aDst s + y * Wo + x) =
          Memory.read s.mem (aSrc0 s + min y (aHeight s - 1) * aWidth s + min x (aWidth s - 1))

/-- R232: CROP with its arguments in range and its buffers in range and apart completes, copies the top-left NEWW × NEWH
region to rows of length NEWW, and changes no other byte and no other state. -/
def Obligations.CropCopiesTheCorner : Prop :=
  ∀ s : State, 1 ≤ aWidth s → aWidth s ≤ 65535 → 1 ≤ aHeight s → aHeight s ≤ 65535 → aNeww s ≤ aWidth s →
    aNewh s ≤ aHeight s → fits s (aSrc0 s) (aWidth s * aHeight s) → fits s (aDst s) (aNeww s * aNewh s) →
    apart (aSrc0 s) (aWidth s * aHeight s) (aDst s) (aNeww s * aNewh s) →
    ∃ t, exec .crop s = .next t ∧ t = completed { s with mem := t.mem } ∧
      sameOutside ⟨aDst s, aNeww s * aNewh s⟩ s t ∧
      ∀ x < aNeww s, ∀ y < aNewh s,
        aDst s + y * aNeww s + x ∉ s.raced → aSrc0 s + y * aWidth s + x ∉ s.raced →
        Memory.read t.mem (aDst s + y * aNeww s + x) = Memory.read s.mem (aSrc0 s + y * aWidth s + x)

/-- R227, R232, R302: EXTEND's and CROP's errors, in their order. -/
def Obligations.BorderErrorsInOrder : Prop :=
  ∀ s : State,
    (¬(1 ≤ aWidth s ∧ aWidth s ≤ 65535 ∧ 1 ≤ aHeight s ∧ aHeight s ≤ 65535 ∧ 1 ≤ aBsize s ∧ aBsize s ≤ 65535) →
      exec .extend s = errorEnd .badArg s) ∧
    (1 ≤ aWidth s → aWidth s ≤ 65535 → 1 ≤ aHeight s → aHeight s ≤ 65535 → 1 ≤ aBsize s → aBsize s ≤ 65535 →
      (aDstlen s < extendWidth s * extendHeight s ∨ ¬fits s (aSrc0 s) (aWidth s * aHeight s) ∨
        ¬fits s (aDst s) (extendWidth s * extendHeight s) → exec .extend s = errorEnd .addrRange s) ∧
      (extendWidth s * extendHeight s ≤ aDstlen s → fits s (aSrc0 s) (aWidth s * aHeight s) →
        fits s (aDst s) (extendWidth s * extendHeight s) →
        ¬apart (aSrc0 s) (aWidth s * aHeight s) (aDst s) (extendWidth s * extendHeight s) →
        exec .extend s = errorEnd .overlap s)) ∧
    (¬(1 ≤ aWidth s ∧ aWidth s ≤ 65535 ∧ 1 ≤ aHeight s ∧ aHeight s ≤ 65535 ∧ aNeww s ≤ aWidth s ∧ aNewh s ≤ aHeight s) →
      exec .crop s = errorEnd .badArg s) ∧
    (1 ≤ aWidth s → aWidth s ≤ 65535 → 1 ≤ aHeight s → aHeight s ≤ 65535 → aNeww s ≤ aWidth s → aNewh s ≤ aHeight s →
      (¬fits s (aSrc0 s) (aWidth s * aHeight s) ∨ ¬fits s (aDst s) (aNeww s * aNewh s) →
        exec .crop s = errorEnd .addrRange s) ∧
      (fits s (aSrc0 s) (aWidth s * aHeight s) → fits s (aDst s) (aNeww s * aNewh s) →
        ¬apart (aSrc0 s) (aWidth s * aHeight s) (aDst s) (aNeww s * aNewh s) → exec .crop s = errorEnd .overlap s))

/-- R233: EXTEND with block size N into a buffer Q, then CROP of Q back to W × H, gives the plane back byte for byte.
The two commands run one after the other, the second with the first's output as its source. -/
def Obligations.ExtendThenCropRoundTrip : Prop :=
  ∀ (s t u : State) (d : Word), exec .extend s = .next t → t.errCode = .noError → s.errCode = .noError → s.raced = [] →
    exec .crop { t with latched := { t.latched with
      src0 := s.latched.dst, width := t.result0, height := t.result1, neww := s.latched.width, newh := s.latched.height,
      dst := d } } = .next u → u.errCode = .noError →
    ∀ k < aWidth s * aHeight s, Memory.read u.mem (d.toNat + k) = Memory.read s.mem (aSrc0 s + k)

/-! ## The ENCODE pass (spec/45_macroblock_sequencer.md) -/

/-- R260: padded chroma is exactly half of padded luma for every width and height in 2..65535, so that every macroblock
has its chroma block inside the padded chroma planes. -/
def Obligations.ChromaIsCoRegistered : Prop :=
  ∀ s : State, 2 ≤ aWidth s → aWidth s ≤ 65535 → 2 ≤ aHeight s → aHeight s ≤ 65535 →
    passCwp s = passWp s / 2 ∧ passChp s = passHp s / 2 ∧ passWp s % 16 = 0 ∧ passHp s % 16 = 0 ∧
      ∀ mx < passWp s / 16, ∀ my < passHp s / 16, 8 * mx + 8 ≤ passCwp s ∧ 8 * my + 8 ≤ passChp s

/-- R252, R254, R255, R361 (the step's extent is the model's, notes/assumptions/13.md): ENCODE with its sizes and planes in range clears the counters, rebuilds the four tables as
QTBUILD does, and offers HEADER, still BUSY; data memory and everything else are unchanged. -/
def Obligations.EncodeBeginsAPass : Prop :=
  ∀ s : State, 2 ≤ aWidth s → aWidth s ≤ 65535 → 2 ≤ aHeight s → aHeight s ≤ 65535 →
    fits s (aSrc0 s) (aWidth s * aHeight s) → fits s (aSrc1 s) (aWidth s / 2 * (aHeight s / 2)) →
    fits s (aSrc2 s) (aWidth s / 2 * (aHeight s / 2)) →
    ∃ t q, exec .encode s = .next t ∧ t.seq = some q ∧ q.phase = .hdrEvents ∧ q.hdr = 0 ∧ q.pending = some .header ∧
      (∀ k < 64, ((entry t.qtLuma k).toNat : Int) = specQq (entry s.params.baseLuma k).toNat (aQuality s) ∧
        ((entry t.qtChroma k).toNat : Int) = specQq (entry s.params.baseChroma k).toNat (aQuality s) ∧
        entry t.qtzLuma k = entry t.qtLuma (ZZ k) ∧ entry t.qtzChroma k = entry t.qtChroma (ZZ k)) ∧
      t = { s with
        mbCount := 0, blkCount := 0, qtLuma := t.qtLuma, qtChroma := t.qtChroma, qtzLuma := t.qtzLuma,
        qtzChroma := t.qtzChroma, qvalid := true, seq := some q, stream := s.stream ++ [.header] }

/-- R252, R302: ENCODE's errors before the pass, in their order. -/
def Obligations.EncodeErrorsInOrder : Prop :=
  ∀ s : State,
    (¬(2 ≤ aWidth s ∧ aWidth s ≤ 65535 ∧ 2 ≤ aHeight s ∧ aHeight s ≤ 65535) → exec .encode s = errorEnd .badArg s) ∧
    (2 ≤ aWidth s → aWidth s ≤ 65535 → 2 ≤ aHeight s → aHeight s ≤ 65535 →
      ¬(fits s (aSrc0 s) (aWidth s * aHeight s) ∧ fits s (aSrc1 s) (aWidth s / 2 * (aHeight s / 2)) ∧
        fits s (aSrc2 s) (aWidth s / 2 * (aHeight s / 2))) → exec .encode s = errorEnd .addrRange s)

/-- R252, R258, R261 to R266, R277: an accepted ENCODE whose sink accepts every event runs to completion and offers
exactly the stream the spec gives, computed from the bytes of the three planes: the header events, every macroblock's six
blocks in raster order, and FINISH. It leaves the tables of a.QUALITY, the order-8 kernel, the counts of R267 and DONE = 1
without error; data memory, the RESULT registers and everything else are unchanged. The steps of the pass and the field
`stream` are the model's own (notes/assumptions/13.md, notes/assumptions/14.md), and `acceptingPass` lists those steps. -/
def Obligations.EncodePassEmitsTheSpecStream : Prop :=
  ∀ s : State, s.busy = true → s.seq = none → decode (commandWord s) = .ok .encode → s.raced = [] →
    2 ≤ aWidth s → aWidth s ≤ 65535 → 2 ≤ aHeight s → aHeight s ≤ 65535 →
    fits s (aSrc0 s) (aWidth s * aHeight s) → fits s (aSrc1 s) (aWidth s / 2 * (aHeight s / 2)) →
    fits s (aSrc2 s) (aWidth s / 2 * (aHeight s / 2)) →
    Host.Core.run Sys2Proof.core (acceptingPass s).length { s with moves := acceptingPass s } =
      .next (completed { s with
        moves := [], stream := s.stream ++ specStream s,
        qtLuma := scaleTable s.params.baseLuma (aQuality s), qtChroma := scaleTable s.params.baseChroma (aQuality s),
        qtzLuma := zigzagTable (scaleTable s.params.baseLuma (aQuality s)),
        qtzChroma := zigzagTable (scaleTable s.params.baseChroma (aQuality s)), qvalid := true,
        kernel := kernelOf 8, korder := 8, kvalid := true,
        mbCount := BitVec.ofNat 32 (passWp s / 16 * (passHp s / 16)),
        blkCount := BitVec.ofNat 32 (6 * (passWp s / 16 * (passHp s / 16))) })

/-- R265, V35: the standalone commands XFORM, QUANT.Y and ZIGZAG.B, each on the block the one before left at a.DST,
leave the payload that ENCODE's `code` computes for the same samples. That the transform's outputs fit in i16 is R164. -/
def Obligations.StandaloneChainComputesCode : Prop :=
  ∀ s t u w : State, s.errCode = .noError → s.raced = [] → s.korder = 8 →
    (∀ i < 8, ∀ j < 8,
      -32768 ≤ dctEval 8 s.kernel (fun r c => (Memory.read s.mem (aSrc0 s + r * 8 + c)).toInt) i j ∧
        dctEval 8 s.kernel (fun r c => (Memory.read s.mem (aSrc0 s + r * 8 + c)).toInt) i j ≤ 32767) →
    exec .xform s = .next t → t.errCode = .noError →
    exec .quantY { t with latched := { t.latched with src0 := s.latched.dst } } = .next u → u.errCode = .noError →
    exec .zigzagB u = .next w → w.errCode = .noError →
    ∀ k < 64, Memory.read16 w.mem (aDst s + 2 * k) =
      entry (code s.kernel (fun r c => (Memory.read s.mem (aSrc0 s + r * 8 + c)).toInt) s.qtLuma) k

/-- R267: the pass of an accepted ENCODE whose sink accepts every event ends completed, and has offered exactly
4 + 6·MBW·MBH + 1 events: the four header events, 4·MBW·MBH BLOCK_Y, MBW·MBH BLOCK_U, MBW·MBH BLOCK_V and one FINISH; and
MBCOUNT = MBW·MBH and BLKCOUNT = 6·MBW·MBH. The stream is that of the machine's run; its steps are the model's own
(notes/assumptions/13.md, notes/assumptions/14.md). -/
def Obligations.EncodeEventCount : Prop :=
  ∀ (s : State) (grid : Nat), EncodeReady s → grid = passWp s / 16 * (passHp s / 16) →
    ∃ (t : State) (evs : List WriterEvent),
      Host.Core.run Sys2Proof.core (acceptingPass s).length { s with moves := acceptingPass s } = .next t ∧
      t.busy = false ∧ t.done = true ∧ t.stream = s.stream ++ evs ∧ evs.length = 4 + 6 * grid + 1 ∧
      (∀ k ∈ [0#3, 1#3, 2#3, 3#3, 7#3], evs.countP (fun ev => ev.kind == k) = 1) ∧
      evs.countP (fun ev => ev.kind == 4#3) = 4 * grid ∧ evs.countP (fun ev => ev.kind == 5#3) = grid ∧
      evs.countP (fun ev => ev.kind == 6#3) = grid ∧ t.mbCount.toNat = grid ∧ t.blkCount.toNat = 6 * grid

/-- R273: two accepted ENCODEs whose sinks accept every event offer the same events, wherever their planes lie and
whatever earlier commands left, if the bytes of the three planes, W, H and the clamped quality (and the base tables) are
the same. The streams are those of the two runs of the machine; their steps are the model's own
(notes/assumptions/13.md, notes/assumptions/14.md). -/
def Obligations.EncodeStreamDependsOnTheImageOnly : Prop :=
  ∀ s t : State, EncodeReady s → EncodeReady t → aWidth s = aWidth t → aHeight s = aHeight t →
    clampQuality (aQuality s) = clampQuality (aQuality t) →
    s.params.baseLuma = t.params.baseLuma → s.params.baseChroma = t.params.baseChroma →
    (∀ k < aWidth s * aHeight s, Memory.read s.mem (aSrc0 s + k) = Memory.read t.mem (aSrc0 t + k)) →
    (∀ k < aWidth s / 2 * (aHeight s / 2), Memory.read s.mem (aSrc1 s + k) = Memory.read t.mem (aSrc1 t + k) ∧
      Memory.read s.mem (aSrc2 s + k) = Memory.read t.mem (aSrc2 t + k)) →
    ∃ (s' t' : State) (evs : List WriterEvent),
      Host.Core.run Sys2Proof.core (acceptingPass s).length { s with moves := acceptingPass s } = .next s' ∧
      Host.Core.run Sys2Proof.core (acceptingPass t).length { t with moves := acceptingPass t } = .next t' ∧
      s'.stream = s.stream ++ evs ∧ t'.stream = t.stream ++ evs

/-- R268, R270, R271: while an event is offered the core waits, with no timeout; FAIL ends the pass at once with
WRITER_FAIL, keeping the counters, the tables, the kernel and data memory; and the core then offers no further event. -/
def Obligations.WriterFailEndsThePass : Prop :=
  ∀ (s : State) (q : Sequencer) (ev : WriterEvent), s.busy = true → s.seq = some q → q.pending = some ev →
    step (withMove .core s) = .next s ∧ step (withMove (.sink .fail) s) = errorEnd .writerFail s ∧
      ∀ t, errorEnd .writerFail s = .next t → step (withMove .core t) = .next t ∧ t.stream = s.stream

/-- R39: when the sink accepts an event, BLKCOUNT rises by 1 if it is a block event and MBCOUNT rises by 1 if it is a
BLOCK_V, which ends a macroblock (e = 5). Neither counter changes otherwise, but that an ENCODE that passes its checks sets
both to 0 as it begins, and so does reset. The premise is the part of the model's invariant about a pass: the event offered
is the one its position names. -/
def Obligations.CountersCountAcceptedBlocks : Prop :=
  (∀ (s : State) (q : Sequencer) (ev : WriterEvent), PassOk s → s.seq = some q → q.pending = some ev →
    ∃ t, step (withMove (.sink .accept) s) = .next t ∧
      t.blkCount = (if ev.kind = 4#3 ∨ ev.kind = 5#3 ∨ ev.kind = 6#3 then s.blkCount + 1 else s.blkCount) ∧
      t.mbCount = (if ev.kind = 6#3 then s.mbCount + 1 else s.mbCount)) ∧
  ∀ s t : State, PassOk s → step s = .next t →
    (t.blkCount = s.blkCount ∧ t.mbCount = s.mbCount) ∨
    (∃ rest q ev, s.moves = .sink .accept :: rest ∧ s.seq = some q ∧ q.pending = some ev ∧ q.phase = .blocks ∧
      (ev.kind = 4#3 ∨ ev.kind = 5#3 ∨ ev.kind = 6#3) ∧ (ev.kind = 6#3 ↔ q.e = 5) ∧ t.blkCount = s.blkCount + 1 ∧
      t.mbCount = if q.e = 5 then s.mbCount + 1 else s.mbCount) ∨
    (t.blkCount = 0 ∧ t.mbCount = 0 ∧ s.busy = true ∧ s.seq = none ∧ decode (commandWord s) = .ok .encode ∧
      encodeCheck s = none ∧ (s.moves = [] ∨ ∃ rest, s.moves = .core :: rest)) ∨
    (t.blkCount = 0 ∧ t.mbCount = 0 ∧ ∃ rest, s.moves = .reset :: rest)

/-! ## Data memory, the host and reset (spec/20_memory.md, spec/70_reset_and_hazards.md) -/

/-- R90, R93, R94, with the model's treatment of races (notes/assumptions/11.md): a host read of data memory of an idle block returns the byte; while a command runs it returns the old
byte, or the one the command leaves. A host write stores its byte and no other. An address outside the space stops the
run (the model's own fault, notes/assumptions/7.md). -/
def Obligations.HostDataAccess : Prop :=
  ∀ (s : State) (a : Nat) (b : Byte),
    (a < s.params.memSize →
      (∃ t, step (withMove (.host (.memRead a)) s) = .next t ∧ t = { s with hostData := t.hostData, draws := t.draws } ∧
        (t.hostData = (Memory.read s.mem a).setWidth 32 ∨ t.hostData = (Memory.read (memoryAfter s) a).setWidth 32) ∧
        (s.busy = false → t.hostData = (Memory.read s.mem a).setWidth 32)) ∧
      ∃ t, step (withMove (.host (.memWrite a b)) s) = .next t ∧ t = { s with mem := t.mem, raced := t.raced } ∧
        ∀ c, Memory.read t.mem c = if c = a then b else Memory.read s.mem c) ∧
    (s.params.memSize ≤ a → step (withMove (.host (.memRead a)) s) = .fault (.hostAddressOutsideMemory a) ∧
      step (withMove (.host (.memWrite a b)) s) = .fault (.hostAddressOutsideMemory a))

/-- R340, R341, R342, with the model's own fields kept (notes/assumptions/12.md): reset gives every register its reset value and withdraws any pending event. Data memory is
untouched when no command runs or when ENCODE does; else each byte is its old value or the one the command would have
written. -/
def Obligations.ResetAbortsTheCommand : Prop :=
  ∀ s : State, ∃ t, step (withMove .reset s) = .next t ∧
    t = { State.resetWith s.params with
      mem := t.mem, moves := s.moves, stream := s.stream, hostData := s.hostData, draws := t.draws } ∧
    (∀ a, Memory.read t.mem a = Memory.read s.mem a ∨ Memory.read t.mem a = Memory.read (memoryAfter s) a) ∧
    (s.busy = false ∨ s.seq ≠ none ∨ decode (commandWord s) = .ok .encode → t.mem = s.mem)

/-! ## Invariants -/

/-- R31, R40, R48: the state after reset meets the invariant, for any legal parameters and whatever its environment is
going to do. -/
def Obligations.ResetMeetsTheInvariant : Prop :=
  ∀ (p : Params) (moves : List Move), p.wf → State.Inv { State.resetWith p with moves := moves }

/-- R34, R39 to R42, R80, R251, R254, R256, R269, R310: every step keeps the invariant: data memory canonical and inside
its space, KORDER ≠ 0 exactly when KVALID = 1 with the kernel of that order stored, the four tables those of one quality,
STATUS consistent, and a pass that offers its events in the order of R269 with counters to match. Where a pass rests
between steps is the model's choice (notes/assumptions/13.md), and so is what its position holds in KERNEL_BUILD
(notes/assumptions/21.md). -/
def Obligations.EveryStepKeepsTheInvariant : Prop := ∀ s t : State, s.Inv → step s = .next t → t.Inv

/-- The machine never stops on a command: only an access that no agent can make ends a run (R80, R270). -/
def Obligations.NoCommandStopsTheMachine : Prop :=
  (∀ (i : Instr) (s : State), ∃ t, exec i s = .next t) ∧
    ∀ s : State, (∃ t, step s = .next t) ∨
      (∃ a rest, s.params.memSize ≤ a ∧ step s = .fault (.hostAddressOutsideMemory a) ∧
        ((∃ b, s.moves = .host (.memWrite a b) :: rest) ∨ s.moves = .host (.memRead a) :: rest)) ∨
      ∃ x rest, step s = .fault .answerWithoutEvent ∧ s.moves = .sink x :: rest ∧
        ∀ q, s.seq = some q → q.pending = none
end

