-- ==== Sys2Proof/Laws/Memory.lean ====
section
/-! SUPPORT. What data memory's operations do: a read after a write, and the canonical form they keep. -/

namespace Sys2Proof.Machine.Memory

@[simp] theorem read_nil (a : Nat) : read [] a = unlistedByte := rfl

theorem read_cons (k : Nat) (v : Byte) (m : Memory) (a : Nat) :
    read ((k, v) :: m) a = if k = a then v else read m a := rfl

/-- Reading an address no cell has gives the unlisted byte. -/
theorem read_of_forall_ne {m : Memory} {a : Nat} (h : ∀ c ∈ m, c.1 ≠ a) : read m a = unlistedByte := by
  induction m with
  | nil => rfl
  | cons c m ih =>
    obtain ⟨k, v⟩ := c
    rw [read_cons, if_neg (h (k, v) List.mem_cons_self), ih fun c hc => h c (List.mem_cons_of_mem _ hc)]

theorem read_filter_ne (m : Memory) (a b : Nat) :
    read (m.filter fun c => decide (c.1 ≠ a)) b = if b = a then unlistedByte else read m b := by
  induction m with
  | nil => simp
  | cons c m ih =>
    obtain ⟨k, v⟩ := c
    by_cases hk : k = a <;> by_cases hb : k = b <;> simp_all [read_cons]

theorem read_insertCell {m : Memory} {a : Nat} (h : ∀ c ∈ m, c.1 ≠ a) (v : Byte) (b : Nat) :
    read (insertCell m a v) b = if b = a then v else read m b := by
  induction m with
  | nil => simp [insertCell, read_cons, eq_comm]
  | cons c m ih =>
    obtain ⟨k, w⟩ := c
    have hk : k ≠ a := h (k, w) List.mem_cons_self
    have ih := ih fun c hc => h c (List.mem_cons_of_mem _ hc)
    rw [insertCell]
    split
    · simp [read_cons, eq_comm]
    · rw [read_cons, ih, read_cons]
      by_cases hb : k = b
      · subst hb; simp [hk]
      · simp [hb]

theorem mem_filter_ne {m : Memory} {a : Nat} : ∀ c ∈ m.filter fun c => decide (c.1 ≠ a), c.1 ≠ a := by
  intro c hc
  simpa using (List.mem_filter.mp hc).2

/-- A read after a write: the written byte at its address, the old byte everywhere else. -/
theorem read_write (m : Memory) (a : Nat) (v : Byte) (b : Nat) :
    read (write m a v) b = if b = a then v else read m b := by
  unfold write
  split
  · next h => rw [read_filter_ne, h]
  · rw [read_insertCell mem_filter_ne, read_filter_ne]
    split <;> rfl

@[simp] theorem read_write_self (m : Memory) (a : Nat) (v : Byte) : read (write m a v) a = v := by simp [read_write]

theorem read_write_ne (m : Memory) {a b : Nat} (v : Byte) (h : b ≠ a) : read (write m a v) b = read m b := by
  simp [read_write, h]

@[simp] theorem writeBytes_nil (m : Memory) (a : Nat) : writeBytes m a [] = m := rfl

@[simp] theorem writeBytes_cons (m : Memory) (a : Nat) (b : Byte) (bs : List Byte) :
    writeBytes m a (b :: bs) = writeBytes (write m a b) (a + 1) bs := rfl

/-- A read after consecutive writes: byte `b - a` of the list inside, the old byte outside. -/
theorem read_writeBytes (bs : List Byte) (m : Memory) (a b : Nat) :
    read (writeBytes m a bs) b = if h : a ≤ b ∧ b - a < bs.length then bs[b - a]'h.2 else read m b := by
  induction bs generalizing m a with
  | nil => simp
  | cons v bs ih =>
    rw [writeBytes_cons, ih, read_write]
    by_cases hlt : b < a
    · rw [dif_neg (by omega), dif_neg (by omega), if_neg (by omega)]
    · by_cases heq : b = a
      · subst heq; simp
      · by_cases hin : b - a < (v :: bs).length
        · rw [dif_pos (by simp at hin ⊢; omega), dif_pos ⟨by omega, hin⟩]
          obtain ⟨k, hk⟩ : ∃ k, b - a = k + 1 := ⟨b - a - 1, by omega⟩
          have hk' : b - (a + 1) = k := by omega
          simp [hk, hk']
        · rw [dif_neg (by simp at hin ⊢; omega), dif_neg (by omega), if_neg heq]

/-- The same for bytes given by their position. -/
theorem read_writeBytes_range (m : Memory) (a n : Nat) (f : Nat → Byte) (b : Nat) :
    read (writeBytes m a ((List.range n).map f)) b = if a ≤ b ∧ b < a + n then f (b - a) else read m b := by
  rw [read_writeBytes]
  by_cases h : a ≤ b ∧ b < a + n
  · rw [dif_pos (by simp; omega), if_pos h]; simp
  · rw [dif_neg (by simp; omega), if_neg h]

theorem mem_insertCell {m : Memory} {a : Nat} {v : Byte} {c : Host.Cell} :
    c ∈ insertCell m a v ↔ c = (a, v) ∨ c ∈ m := by
  induction m with
  | nil => simp [insertCell]
  | cons d m ih =>
    obtain ⟨k, w⟩ := d
    rw [insertCell]
    split
    · simp
    · simp only [List.mem_cons, ih]; tauto

theorem pairwise_insertCell {m : Memory} {a : Nat} (v : Byte) (hm : m.Pairwise fun c d => c.1 < d.1)
    (h : ∀ c ∈ m, c.1 ≠ a) : (insertCell m a v).Pairwise fun c d => c.1 < d.1 := by
  induction m with
  | nil => simp [insertCell]
  | cons d m ih =>
    obtain ⟨k, w⟩ := d
    obtain ⟨hd, hm⟩ := List.pairwise_cons.mp hm
    rw [insertCell]
    split
    · next hlt =>
      refine List.pairwise_cons.mpr ⟨?_, List.pairwise_cons.mpr ⟨hd, hm⟩⟩
      intro c hc
      rcases List.mem_cons.mp hc with rfl | hc
      · exact hlt
      · exact hlt.trans (hd c hc)
    · refine List.pairwise_cons.mpr ⟨?_, ih hm fun c hc => h c (List.mem_cons_of_mem _ hc)⟩
      intro c hc
      rcases mem_insertCell.mp hc with rfl | hc
      · have := h (k, w) List.mem_cons_self
        simp only at this ⊢
        omega
      · exact hd c hc

/-- The cells of a write: the written one, and old ones. -/
theorem mem_write {m : Memory} {a : Nat} {v : Byte} {c : Host.Cell} (h : c ∈ write m a v) :
    (c = (a, v) ∧ v ≠ unlistedByte) ∨ c ∈ m := by
  unfold write at h
  split at h
  · exact .inr (List.mem_filter.mp h).1
  · next hv =>
    rcases mem_insertCell.mp h with rfl | h
    · exact .inl ⟨rfl, hv⟩
    · exact .inr (List.mem_filter.mp h).1

/-- A write keeps the canonical form. -/
theorem wf_write {m : Memory} (hm : wf m) (a : Nat) (v : Byte) : wf (write m a v) := by
  refine ⟨?_, ?_⟩
  · unfold write
    split
    · exact hm.1.filter _
    · exact pairwise_insertCell v (hm.1.filter _) mem_filter_ne
  · intro c hc
    rcases mem_write hc with ⟨rfl, hv⟩ | hc
    · exact hv
    · exact hm.2 c hc

theorem wf_writeBytes (bs : List Byte) {m : Memory} (hm : wf m) (a : Nat) : wf (writeBytes m a bs) := by
  induction bs generalizing m a with
  | nil => exact hm
  | cons v bs ih => exact ih (wf_write hm a v) (a + 1)

/-- Every listed address lies below a bound. -/
abbrev below (n : Nat) (m : Memory) : Prop := ∀ c ∈ m, c.1 < n

theorem below_write {n : Nat} {m : Memory} (hm : below n m) {a : Nat} (ha : a < n) (v : Byte) :
    below n (write m a v) := by
  intro c hc
  rcases mem_write hc with ⟨rfl, -⟩ | hc
  · exact ha
  · exact hm c hc

theorem below_writeBytes {n : Nat} (bs : List Byte) {m : Memory} (hm : below n m) {a : Nat}
    (ha : bs = [] ∨ a + bs.length ≤ n) : below n (writeBytes m a bs) := by
  induction bs generalizing m a with
  | nil => exact hm
  | cons v bs ih =>
    have ha : a + (bs.length + 1) ≤ n := by simpa using ha
    exact ih (below_write hm (by omega) v) (.inr (by omega))

/-- Two canonical memories that read alike everywhere are equal. -/
theorem eq_of_read_eq {m m' : Memory} (hm : wf m) (hm' : wf m') (h : ∀ a, read m a = read m' a) : m = m' := by
  induction m generalizing m' with
  | nil =>
    cases m' with
    | nil => rfl
    | cons d m' =>
      obtain ⟨l, w⟩ := d
      exact absurd (by simpa [read_cons] using (h l).symm) (hm'.2 (l, w) List.mem_cons_self)
  | cons c m ih =>
    obtain ⟨k, v⟩ := c
    obtain ⟨hc, hp⟩ := List.pairwise_cons.mp hm.1
    have hv : v ≠ unlistedByte := hm.2 (k, v) List.mem_cons_self
    cases m' with
    | nil => exact absurd (by simpa [read_cons] using h k) hv
    | cons d m' =>
      obtain ⟨l, w⟩ := d
      obtain ⟨hd, hp'⟩ := List.pairwise_cons.mp hm'.1
      have hw : w ≠ unlistedByte := hm'.2 (l, w) List.mem_cons_self
      have low : ∀ {x : Nat} {n : Memory}, (∀ c ∈ n, x < c.1) → ∀ y ≤ x, read n y = unlistedByte := fun hn y hy =>
        read_of_forall_ne fun c hc => by have := hn c hc; omega
      have hkl : k = l := by
        rcases Nat.lt_trichotomy k l with hlt | heq | hgt
        · have := h k
          rw [read_cons, if_pos rfl, read_cons, if_neg (by omega), low hd k (by omega)] at this
          exact absurd this hv
        · exact heq
        · have := h l
          rw [read_cons, if_neg (by omega), low hc l (by omega), read_cons, if_pos rfl] at this
          exact absurd this.symm hw
      subst hkl
      have hvw : v = w := by simpa [read_cons] using h k
      subst hvw
      congr 1
      refine ih ⟨hp, fun c hc => hm.2 c (List.mem_cons_of_mem _ hc)⟩
        ⟨hp', fun c hc => hm'.2 c (List.mem_cons_of_mem _ hc)⟩ fun a => ?_
      by_cases hka : k = a
      · subst hka
        rw [low hc k le_rfl, low hd k le_rfl]
      · simpa [read_cons, hka] using h a

end Sys2Proof.Machine.Memory
end

