-- ==== Sys2Proof/Laws/State.lean ====
section
/-! SUPPORT. What each shared update of State does to each field, one lemma a field, so that no later proof unfolds a
record update. -/

namespace Sys2Proof.Machine

@[simp] theorem accept_params (w : Word) (s : State) : (accept w s).params = s.params := rfl
@[simp] theorem accept_cmd (w : Word) (s : State) : (accept w s).cmd = w := rfl
@[simp] theorem accept_busy (w : Word) (s : State) : (accept w s).busy = true := rfl
@[simp] theorem accept_done (w : Word) (s : State) : (accept w s).done = false := rfl
@[simp] theorem accept_err (w : Word) (s : State) : (accept w s).err = false := rfl
@[simp] theorem accept_ovr (w : Word) (s : State) : (accept w s).ovr = s.ovr := rfl
@[simp] theorem accept_errCode (w : Word) (s : State) : (accept w s).errCode = .noError := rfl
@[simp] theorem accept_kvalid (w : Word) (s : State) : (accept w s).kvalid = s.kvalid := rfl
@[simp] theorem accept_qvalid (w : Word) (s : State) : (accept w s).qvalid = s.qvalid := rfl
@[simp] theorem accept_doneIe (w : Word) (s : State) : (accept w s).doneIe = s.doneIe := rfl
@[simp] theorem accept_csr (w : Word) (s : State) : (accept w s).csr = s.csr := rfl
@[simp] theorem accept_result0 (w : Word) (s : State) : (accept w s).result0 = s.result0 := rfl
@[simp] theorem accept_result1 (w : Word) (s : State) : (accept w s).result1 = s.result1 := rfl
@[simp] theorem accept_mbCount (w : Word) (s : State) : (accept w s).mbCount = s.mbCount := rfl
@[simp] theorem accept_blkCount (w : Word) (s : State) : (accept w s).blkCount = s.blkCount := rfl
@[simp] theorem accept_korder (w : Word) (s : State) : (accept w s).korder = s.korder := rfl
@[simp] theorem accept_qtLuma (w : Word) (s : State) : (accept w s).qtLuma = s.qtLuma := rfl
@[simp] theorem accept_qtChroma (w : Word) (s : State) : (accept w s).qtChroma = s.qtChroma := rfl
@[simp] theorem accept_qtzLuma (w : Word) (s : State) : (accept w s).qtzLuma = s.qtzLuma := rfl
@[simp] theorem accept_qtzChroma (w : Word) (s : State) : (accept w s).qtzChroma = s.qtzChroma := rfl
@[simp] theorem accept_kernel (w : Word) (s : State) : (accept w s).kernel = s.kernel := rfl
@[simp] theorem accept_op (w : Word) (s : State) : (accept w s).op = opField w := rfl
@[simp] theorem accept_arg (w : Word) (s : State) : (accept w s).arg = aField w := rfl
@[simp] theorem accept_latched (w : Word) (s : State) : (accept w s).latched = s.csr := rfl
@[simp] theorem accept_seq (w : Word) (s : State) : (accept w s).seq = none := rfl
@[simp] theorem accept_mem (w : Word) (s : State) : (accept w s).mem = s.mem := rfl
@[simp] theorem accept_moves (w : Word) (s : State) : (accept w s).moves = s.moves := rfl
@[simp] theorem accept_stream (w : Word) (s : State) : (accept w s).stream = s.stream := rfl
@[simp] theorem accept_hostData (w : Word) (s : State) : (accept w s).hostData = s.hostData := rfl
@[simp] theorem accept_raced (w : Word) (s : State) : (accept w s).raced = [] := rfl
@[simp] theorem accept_draws (w : Word) (s : State) : (accept w s).draws = s.draws + 1 := rfl

@[simp] theorem complete_params (s : State) : (complete s).params = s.params := rfl
@[simp] theorem complete_cmd (s : State) : (complete s).cmd = s.cmd := rfl
@[simp] theorem complete_busy (s : State) : (complete s).busy = false := rfl
@[simp] theorem complete_done (s : State) : (complete s).done = true := rfl
@[simp] theorem complete_err (s : State) : (complete s).err = s.err := rfl
@[simp] theorem complete_ovr (s : State) : (complete s).ovr = s.ovr := rfl
@[simp] theorem complete_errCode (s : State) : (complete s).errCode = s.errCode := rfl
@[simp] theorem complete_kvalid (s : State) : (complete s).kvalid = s.kvalid := rfl
@[simp] theorem complete_qvalid (s : State) : (complete s).qvalid = s.qvalid := rfl
@[simp] theorem complete_doneIe (s : State) : (complete s).doneIe = s.doneIe := rfl
@[simp] theorem complete_csr (s : State) : (complete s).csr = s.csr := rfl
@[simp] theorem complete_result0 (s : State) : (complete s).result0 = s.result0 := rfl
@[simp] theorem complete_result1 (s : State) : (complete s).result1 = s.result1 := rfl
@[simp] theorem complete_mbCount (s : State) : (complete s).mbCount = s.mbCount := rfl
@[simp] theorem complete_blkCount (s : State) : (complete s).blkCount = s.blkCount := rfl
@[simp] theorem complete_korder (s : State) : (complete s).korder = s.korder := rfl
@[simp] theorem complete_qtLuma (s : State) : (complete s).qtLuma = s.qtLuma := rfl
@[simp] theorem complete_qtChroma (s : State) : (complete s).qtChroma = s.qtChroma := rfl
@[simp] theorem complete_qtzLuma (s : State) : (complete s).qtzLuma = s.qtzLuma := rfl
@[simp] theorem complete_qtzChroma (s : State) : (complete s).qtzChroma = s.qtzChroma := rfl
@[simp] theorem complete_kernel (s : State) : (complete s).kernel = s.kernel := rfl
@[simp] theorem complete_op (s : State) : (complete s).op = s.op := rfl
@[simp] theorem complete_arg (s : State) : (complete s).arg = s.arg := rfl
@[simp] theorem complete_latched (s : State) : (complete s).latched = s.latched := rfl
@[simp] theorem complete_seq (s : State) : (complete s).seq = none := rfl
@[simp] theorem complete_mem (s : State) : (complete s).mem = s.mem := rfl
@[simp] theorem complete_moves (s : State) : (complete s).moves = s.moves := rfl
@[simp] theorem complete_stream (s : State) : (complete s).stream = s.stream := rfl
@[simp] theorem complete_hostData (s : State) : (complete s).hostData = s.hostData := rfl
@[simp] theorem complete_raced (s : State) : (complete s).raced = s.raced := rfl
@[simp] theorem complete_draws (s : State) : (complete s).draws = s.draws := rfl

@[simp] theorem raiseError_params (c : ErrorCode) (s : State) : (raiseError c s).params = s.params := rfl
@[simp] theorem raiseError_cmd (c : ErrorCode) (s : State) : (raiseError c s).cmd = s.cmd := rfl
@[simp] theorem raiseError_busy (c : ErrorCode) (s : State) : (raiseError c s).busy = false := rfl
@[simp] theorem raiseError_done (c : ErrorCode) (s : State) : (raiseError c s).done = true := rfl
@[simp] theorem raiseError_err (c : ErrorCode) (s : State) : (raiseError c s).err = true := rfl
@[simp] theorem raiseError_ovr (c : ErrorCode) (s : State) : (raiseError c s).ovr = s.ovr := rfl
@[simp] theorem raiseError_errCode (c : ErrorCode) (s : State) : (raiseError c s).errCode = c := rfl
@[simp] theorem raiseError_kvalid (c : ErrorCode) (s : State) : (raiseError c s).kvalid = s.kvalid := rfl
@[simp] theorem raiseError_qvalid (c : ErrorCode) (s : State) : (raiseError c s).qvalid = s.qvalid := rfl
@[simp] theorem raiseError_doneIe (c : ErrorCode) (s : State) : (raiseError c s).doneIe = s.doneIe := rfl
@[simp] theorem raiseError_csr (c : ErrorCode) (s : State) : (raiseError c s).csr = s.csr := rfl
@[simp] theorem raiseError_result0 (c : ErrorCode) (s : State) : (raiseError c s).result0 = s.result0 := rfl
@[simp] theorem raiseError_result1 (c : ErrorCode) (s : State) : (raiseError c s).result1 = s.result1 := rfl
@[simp] theorem raiseError_mbCount (c : ErrorCode) (s : State) : (raiseError c s).mbCount = s.mbCount := rfl
@[simp] theorem raiseError_blkCount (c : ErrorCode) (s : State) : (raiseError c s).blkCount = s.blkCount := rfl
@[simp] theorem raiseError_korder (c : ErrorCode) (s : State) : (raiseError c s).korder = s.korder := rfl
@[simp] theorem raiseError_qtLuma (c : ErrorCode) (s : State) : (raiseError c s).qtLuma = s.qtLuma := rfl
@[simp] theorem raiseError_qtChroma (c : ErrorCode) (s : State) : (raiseError c s).qtChroma = s.qtChroma := rfl
@[simp] theorem raiseError_qtzLuma (c : ErrorCode) (s : State) : (raiseError c s).qtzLuma = s.qtzLuma := rfl
@[simp] theorem raiseError_qtzChroma (c : ErrorCode) (s : State) : (raiseError c s).qtzChroma = s.qtzChroma := rfl
@[simp] theorem raiseError_kernel (c : ErrorCode) (s : State) : (raiseError c s).kernel = s.kernel := rfl
@[simp] theorem raiseError_op (c : ErrorCode) (s : State) : (raiseError c s).op = s.op := rfl
@[simp] theorem raiseError_arg (c : ErrorCode) (s : State) : (raiseError c s).arg = s.arg := rfl
@[simp] theorem raiseError_latched (c : ErrorCode) (s : State) : (raiseError c s).latched = s.latched := rfl
@[simp] theorem raiseError_seq (c : ErrorCode) (s : State) : (raiseError c s).seq = none := rfl
@[simp] theorem raiseError_mem (c : ErrorCode) (s : State) : (raiseError c s).mem = s.mem := rfl
@[simp] theorem raiseError_moves (c : ErrorCode) (s : State) : (raiseError c s).moves = s.moves := rfl
@[simp] theorem raiseError_stream (c : ErrorCode) (s : State) : (raiseError c s).stream = s.stream := rfl
@[simp] theorem raiseError_hostData (c : ErrorCode) (s : State) : (raiseError c s).hostData = s.hostData := rfl
@[simp] theorem raiseError_raced (c : ErrorCode) (s : State) : (raiseError c s).raced = s.raced := rfl
@[simp] theorem raiseError_draws (c : ErrorCode) (s : State) : (raiseError c s).draws = s.draws := rfl

@[simp] theorem storeBuffer_params (b n : Nat) (r : Nat → List Nat) (f : Nat → Byte) (s : State) :
    (storeBuffer b n r f s).params = s.params := rfl
@[simp] theorem storeBuffer_cmd (b n : Nat) (r : Nat → List Nat) (f : Nat → Byte) (s : State) :
    (storeBuffer b n r f s).cmd = s.cmd := rfl
@[simp] theorem storeBuffer_busy (b n : Nat) (r : Nat → List Nat) (f : Nat → Byte) (s : State) :
    (storeBuffer b n r f s).busy = s.busy := rfl
@[simp] theorem storeBuffer_done (b n : Nat) (r : Nat → List Nat) (f : Nat → Byte) (s : State) :
    (storeBuffer b n r f s).done = s.done := rfl
@[simp] theorem storeBuffer_err (b n : Nat) (r : Nat → List Nat) (f : Nat → Byte) (s : State) :
    (storeBuffer b n r f s).err = s.err := rfl
@[simp] theorem storeBuffer_ovr (b n : Nat) (r : Nat → List Nat) (f : Nat → Byte) (s : State) :
    (storeBuffer b n r f s).ovr = s.ovr := rfl
@[simp] theorem storeBuffer_errCode (b n : Nat) (r : Nat → List Nat) (f : Nat → Byte) (s : State) :
    (storeBuffer b n r f s).errCode = s.errCode := rfl
@[simp] theorem storeBuffer_kvalid (b n : Nat) (r : Nat → List Nat) (f : Nat → Byte) (s : State) :
    (storeBuffer b n r f s).kvalid = s.kvalid := rfl
@[simp] theorem storeBuffer_qvalid (b n : Nat) (r : Nat → List Nat) (f : Nat → Byte) (s : State) :
    (storeBuffer b n r f s).qvalid = s.qvalid := rfl
@[simp] theorem storeBuffer_doneIe (b n : Nat) (r : Nat → List Nat) (f : Nat → Byte) (s : State) :
    (storeBuffer b n r f s).doneIe = s.doneIe := rfl
@[simp] theorem storeBuffer_csr (b n : Nat) (r : Nat → List Nat) (f : Nat → Byte) (s : State) :
    (storeBuffer b n r f s).csr = s.csr := rfl
@[simp] theorem storeBuffer_result0 (b n : Nat) (r : Nat → List Nat) (f : Nat → Byte) (s : State) :
    (storeBuffer b n r f s).result0 = s.result0 := rfl
@[simp] theorem storeBuffer_result1 (b n : Nat) (r : Nat → List Nat) (f : Nat → Byte) (s : State) :
    (storeBuffer b n r f s).result1 = s.result1 := rfl
@[simp] theorem storeBuffer_mbCount (b n : Nat) (r : Nat → List Nat) (f : Nat → Byte) (s : State) :
    (storeBuffer b n r f s).mbCount = s.mbCount := rfl
@[simp] theorem storeBuffer_blkCount (b n : Nat) (r : Nat → List Nat) (f : Nat → Byte) (s : State) :
    (storeBuffer b n r f s).blkCount = s.blkCount := rfl
@[simp] theorem storeBuffer_korder (b n : Nat) (r : Nat → List Nat) (f : Nat → Byte) (s : State) :
    (storeBuffer b n r f s).korder = s.korder := rfl
@[simp] theorem storeBuffer_qtLuma (b n : Nat) (r : Nat → List Nat) (f : Nat → Byte) (s : State) :
    (storeBuffer b n r f s).qtLuma = s.qtLuma := rfl
@[simp] theorem storeBuffer_qtChroma (b n : Nat) (r : Nat → List Nat) (f : Nat → Byte) (s : State) :
    (storeBuffer b n r f s).qtChroma = s.qtChroma := rfl
@[simp] theorem storeBuffer_qtzLuma (b n : Nat) (r : Nat → List Nat) (f : Nat → Byte) (s : State) :
    (storeBuffer b n r f s).qtzLuma = s.qtzLuma := rfl
@[simp] theorem storeBuffer_qtzChroma (b n : Nat) (r : Nat → List Nat) (f : Nat → Byte) (s : State) :
    (storeBuffer b n r f s).qtzChroma = s.qtzChroma := rfl
@[simp] theorem storeBuffer_kernel (b n : Nat) (r : Nat → List Nat) (f : Nat → Byte) (s : State) :
    (storeBuffer b n r f s).kernel = s.kernel := rfl
@[simp] theorem storeBuffer_op (b n : Nat) (r : Nat → List Nat) (f : Nat → Byte) (s : State) :
    (storeBuffer b n r f s).op = s.op := rfl
@[simp] theorem storeBuffer_arg (b n : Nat) (r : Nat → List Nat) (f : Nat → Byte) (s : State) :
    (storeBuffer b n r f s).arg = s.arg := rfl
@[simp] theorem storeBuffer_latched (b n : Nat) (r : Nat → List Nat) (f : Nat → Byte) (s : State) :
    (storeBuffer b n r f s).latched = s.latched := rfl
@[simp] theorem storeBuffer_seq (b n : Nat) (r : Nat → List Nat) (f : Nat → Byte) (s : State) :
    (storeBuffer b n r f s).seq = s.seq := rfl
@[simp] theorem storeBuffer_mem (b n : Nat) (r : Nat → List Nat) (f : Nat → Byte) (s : State) :
    (storeBuffer b n r f s).mem = Memory.writeBytes s.mem b ((List.range n).map (settled s b r f)) := rfl
@[simp] theorem storeBuffer_moves (b n : Nat) (r : Nat → List Nat) (f : Nat → Byte) (s : State) :
    (storeBuffer b n r f s).moves = s.moves := rfl
@[simp] theorem storeBuffer_stream (b n : Nat) (r : Nat → List Nat) (f : Nat → Byte) (s : State) :
    (storeBuffer b n r f s).stream = s.stream := rfl
@[simp] theorem storeBuffer_hostData (b n : Nat) (r : Nat → List Nat) (f : Nat → Byte) (s : State) :
    (storeBuffer b n r f s).hostData = s.hostData := rfl
@[simp] theorem storeBuffer_raced (b n : Nat) (r : Nat → List Nat) (f : Nat → Byte) (s : State) :
    (storeBuffer b n r f s).raced = s.raced := rfl
@[simp] theorem storeBuffer_draws (b n : Nat) (r : Nat → List Nat) (f : Nat → Byte) (s : State) :
    (storeBuffer b n r f s).draws = s.draws := rfl

@[simp] theorem buildKernel_params (n : Nat) (s : State) : (buildKernel n s).params = s.params := rfl
@[simp] theorem buildKernel_cmd (n : Nat) (s : State) : (buildKernel n s).cmd = s.cmd := rfl
@[simp] theorem buildKernel_busy (n : Nat) (s : State) : (buildKernel n s).busy = s.busy := rfl
@[simp] theorem buildKernel_done (n : Nat) (s : State) : (buildKernel n s).done = s.done := rfl
@[simp] theorem buildKernel_err (n : Nat) (s : State) : (buildKernel n s).err = s.err := rfl
@[simp] theorem buildKernel_ovr (n : Nat) (s : State) : (buildKernel n s).ovr = s.ovr := rfl
@[simp] theorem buildKernel_errCode (n : Nat) (s : State) : (buildKernel n s).errCode = s.errCode := rfl
@[simp] theorem buildKernel_kvalid (n : Nat) (s : State) : (buildKernel n s).kvalid = true := rfl
@[simp] theorem buildKernel_qvalid (n : Nat) (s : State) : (buildKernel n s).qvalid = s.qvalid := rfl
@[simp] theorem buildKernel_doneIe (n : Nat) (s : State) : (buildKernel n s).doneIe = s.doneIe := rfl
@[simp] theorem buildKernel_csr (n : Nat) (s : State) : (buildKernel n s).csr = s.csr := rfl
@[simp] theorem buildKernel_result0 (n : Nat) (s : State) : (buildKernel n s).result0 = s.result0 := rfl
@[simp] theorem buildKernel_result1 (n : Nat) (s : State) : (buildKernel n s).result1 = s.result1 := rfl
@[simp] theorem buildKernel_mbCount (n : Nat) (s : State) : (buildKernel n s).mbCount = s.mbCount := rfl
@[simp] theorem buildKernel_blkCount (n : Nat) (s : State) : (buildKernel n s).blkCount = s.blkCount := rfl
@[simp] theorem buildKernel_korder (n : Nat) (s : State) : (buildKernel n s).korder = BitVec.ofNat 32 n := rfl
@[simp] theorem buildKernel_qtLuma (n : Nat) (s : State) : (buildKernel n s).qtLuma = s.qtLuma := rfl
@[simp] theorem buildKernel_qtChroma (n : Nat) (s : State) : (buildKernel n s).qtChroma = s.qtChroma := rfl
@[simp] theorem buildKernel_qtzLuma (n : Nat) (s : State) : (buildKernel n s).qtzLuma = s.qtzLuma := rfl
@[simp] theorem buildKernel_qtzChroma (n : Nat) (s : State) : (buildKernel n s).qtzChroma = s.qtzChroma := rfl
@[simp] theorem buildKernel_kernel (n : Nat) (s : State) : (buildKernel n s).kernel = kernelOf n := rfl
@[simp] theorem buildKernel_op (n : Nat) (s : State) : (buildKernel n s).op = s.op := rfl
@[simp] theorem buildKernel_arg (n : Nat) (s : State) : (buildKernel n s).arg = s.arg := rfl
@[simp] theorem buildKernel_latched (n : Nat) (s : State) : (buildKernel n s).latched = s.latched := rfl
@[simp] theorem buildKernel_seq (n : Nat) (s : State) : (buildKernel n s).seq = s.seq := rfl
@[simp] theorem buildKernel_mem (n : Nat) (s : State) : (buildKernel n s).mem = s.mem := rfl
@[simp] theorem buildKernel_moves (n : Nat) (s : State) : (buildKernel n s).moves = s.moves := rfl
@[simp] theorem buildKernel_stream (n : Nat) (s : State) : (buildKernel n s).stream = s.stream := rfl
@[simp] theorem buildKernel_hostData (n : Nat) (s : State) : (buildKernel n s).hostData = s.hostData := rfl
@[simp] theorem buildKernel_raced (n : Nat) (s : State) : (buildKernel n s).raced = s.raced := rfl
@[simp] theorem buildKernel_draws (n : Nat) (s : State) : (buildKernel n s).draws = s.draws := rfl

@[simp] theorem buildTables_params (s : State) : (buildTables s).params = s.params := rfl
@[simp] theorem buildTables_cmd (s : State) : (buildTables s).cmd = s.cmd := rfl
@[simp] theorem buildTables_busy (s : State) : (buildTables s).busy = s.busy := rfl
@[simp] theorem buildTables_done (s : State) : (buildTables s).done = s.done := rfl
@[simp] theorem buildTables_err (s : State) : (buildTables s).err = s.err := rfl
@[simp] theorem buildTables_ovr (s : State) : (buildTables s).ovr = s.ovr := rfl
@[simp] theorem buildTables_errCode (s : State) : (buildTables s).errCode = s.errCode := rfl
@[simp] theorem buildTables_kvalid (s : State) : (buildTables s).kvalid = s.kvalid := rfl
@[simp] theorem buildTables_qvalid (s : State) : (buildTables s).qvalid = true := rfl
@[simp] theorem buildTables_doneIe (s : State) : (buildTables s).doneIe = s.doneIe := rfl
@[simp] theorem buildTables_csr (s : State) : (buildTables s).csr = s.csr := rfl
@[simp] theorem buildTables_result0 (s : State) : (buildTables s).result0 = s.result0 := rfl
@[simp] theorem buildTables_result1 (s : State) : (buildTables s).result1 = s.result1 := rfl
@[simp] theorem buildTables_mbCount (s : State) : (buildTables s).mbCount = s.mbCount := rfl
@[simp] theorem buildTables_blkCount (s : State) : (buildTables s).blkCount = s.blkCount := rfl
@[simp] theorem buildTables_korder (s : State) : (buildTables s).korder = s.korder := rfl
@[simp] theorem buildTables_qtLuma (s : State) :
    (buildTables s).qtLuma = scaleTable s.params.baseLuma (aQuality s) := rfl
@[simp] theorem buildTables_qtChroma (s : State) :
    (buildTables s).qtChroma = scaleTable s.params.baseChroma (aQuality s) := rfl
@[simp] theorem buildTables_qtzLuma (s : State) :
    (buildTables s).qtzLuma = zigzagTable (scaleTable s.params.baseLuma (aQuality s)) := rfl
@[simp] theorem buildTables_qtzChroma (s : State) :
    (buildTables s).qtzChroma = zigzagTable (scaleTable s.params.baseChroma (aQuality s)) := rfl
@[simp] theorem buildTables_kernel (s : State) : (buildTables s).kernel = s.kernel := rfl
@[simp] theorem buildTables_op (s : State) : (buildTables s).op = s.op := rfl
@[simp] theorem buildTables_arg (s : State) : (buildTables s).arg = s.arg := rfl
@[simp] theorem buildTables_latched (s : State) : (buildTables s).latched = s.latched := rfl
@[simp] theorem buildTables_seq (s : State) : (buildTables s).seq = s.seq := rfl
@[simp] theorem buildTables_mem (s : State) : (buildTables s).mem = s.mem := rfl
@[simp] theorem buildTables_moves (s : State) : (buildTables s).moves = s.moves := rfl
@[simp] theorem buildTables_stream (s : State) : (buildTables s).stream = s.stream := rfl
@[simp] theorem buildTables_hostData (s : State) : (buildTables s).hostData = s.hostData := rfl
@[simp] theorem buildTables_raced (s : State) : (buildTables s).raced = s.raced := rfl
@[simp] theorem buildTables_draws (s : State) : (buildTables s).draws = s.draws := rfl

@[simp] theorem qscaleEffect_params (b : Nat) (s : State) : (qscaleEffect b s).params = s.params := rfl
@[simp] theorem qscaleEffect_cmd (b : Nat) (s : State) : (qscaleEffect b s).cmd = s.cmd := rfl
@[simp] theorem qscaleEffect_busy (b : Nat) (s : State) : (qscaleEffect b s).busy = s.busy := rfl
@[simp] theorem qscaleEffect_done (b : Nat) (s : State) : (qscaleEffect b s).done = s.done := rfl
@[simp] theorem qscaleEffect_err (b : Nat) (s : State) : (qscaleEffect b s).err = s.err := rfl
@[simp] theorem qscaleEffect_ovr (b : Nat) (s : State) : (qscaleEffect b s).ovr = s.ovr := rfl
@[simp] theorem qscaleEffect_errCode (b : Nat) (s : State) : (qscaleEffect b s).errCode = s.errCode := rfl
@[simp] theorem qscaleEffect_kvalid (b : Nat) (s : State) : (qscaleEffect b s).kvalid = s.kvalid := rfl
@[simp] theorem qscaleEffect_qvalid (b : Nat) (s : State) : (qscaleEffect b s).qvalid = s.qvalid := rfl
@[simp] theorem qscaleEffect_doneIe (b : Nat) (s : State) : (qscaleEffect b s).doneIe = s.doneIe := rfl
@[simp] theorem qscaleEffect_csr (b : Nat) (s : State) : (qscaleEffect b s).csr = s.csr := rfl
@[simp] theorem qscaleEffect_result0 (b : Nat) (s : State) :
    (qscaleEffect b s).result0 = BitVec.ofNat 32 (qq b (aQuality s)) := rfl
@[simp] theorem qscaleEffect_result1 (b : Nat) (s : State) : (qscaleEffect b s).result1 = s.result1 := rfl
@[simp] theorem qscaleEffect_mbCount (b : Nat) (s : State) : (qscaleEffect b s).mbCount = s.mbCount := rfl
@[simp] theorem qscaleEffect_blkCount (b : Nat) (s : State) : (qscaleEffect b s).blkCount = s.blkCount := rfl
@[simp] theorem qscaleEffect_korder (b : Nat) (s : State) : (qscaleEffect b s).korder = s.korder := rfl
@[simp] theorem qscaleEffect_qtLuma (b : Nat) (s : State) : (qscaleEffect b s).qtLuma = s.qtLuma := rfl
@[simp] theorem qscaleEffect_qtChroma (b : Nat) (s : State) : (qscaleEffect b s).qtChroma = s.qtChroma := rfl
@[simp] theorem qscaleEffect_qtzLuma (b : Nat) (s : State) : (qscaleEffect b s).qtzLuma = s.qtzLuma := rfl
@[simp] theorem qscaleEffect_qtzChroma (b : Nat) (s : State) : (qscaleEffect b s).qtzChroma = s.qtzChroma := rfl
@[simp] theorem qscaleEffect_kernel (b : Nat) (s : State) : (qscaleEffect b s).kernel = s.kernel := rfl
@[simp] theorem qscaleEffect_op (b : Nat) (s : State) : (qscaleEffect b s).op = s.op := rfl
@[simp] theorem qscaleEffect_arg (b : Nat) (s : State) : (qscaleEffect b s).arg = s.arg := rfl
@[simp] theorem qscaleEffect_latched (b : Nat) (s : State) : (qscaleEffect b s).latched = s.latched := rfl
@[simp] theorem qscaleEffect_seq (b : Nat) (s : State) : (qscaleEffect b s).seq = s.seq := rfl
@[simp] theorem qscaleEffect_mem (b : Nat) (s : State) : (qscaleEffect b s).mem = s.mem := rfl
@[simp] theorem qscaleEffect_moves (b : Nat) (s : State) : (qscaleEffect b s).moves = s.moves := rfl
@[simp] theorem qscaleEffect_stream (b : Nat) (s : State) : (qscaleEffect b s).stream = s.stream := rfl
@[simp] theorem qscaleEffect_hostData (b : Nat) (s : State) : (qscaleEffect b s).hostData = s.hostData := rfl
@[simp] theorem qscaleEffect_raced (b : Nat) (s : State) : (qscaleEffect b s).raced = s.raced := rfl
@[simp] theorem qscaleEffect_draws (b : Nat) (s : State) : (qscaleEffect b s).draws = s.draws := rfl

@[simp] theorem beginPass_params (s : State) : (beginPass s).params = s.params := rfl
@[simp] theorem beginPass_cmd (s : State) : (beginPass s).cmd = s.cmd := rfl
@[simp] theorem beginPass_busy (s : State) : (beginPass s).busy = s.busy := rfl
@[simp] theorem beginPass_done (s : State) : (beginPass s).done = s.done := rfl
@[simp] theorem beginPass_err (s : State) : (beginPass s).err = s.err := rfl
@[simp] theorem beginPass_ovr (s : State) : (beginPass s).ovr = s.ovr := rfl
@[simp] theorem beginPass_errCode (s : State) : (beginPass s).errCode = s.errCode := rfl
@[simp] theorem beginPass_kvalid (s : State) : (beginPass s).kvalid = s.kvalid := rfl
@[simp] theorem beginPass_qvalid (s : State) : (beginPass s).qvalid = s.qvalid := rfl
@[simp] theorem beginPass_doneIe (s : State) : (beginPass s).doneIe = s.doneIe := rfl
@[simp] theorem beginPass_csr (s : State) : (beginPass s).csr = s.csr := rfl
@[simp] theorem beginPass_result0 (s : State) : (beginPass s).result0 = s.result0 := rfl
@[simp] theorem beginPass_result1 (s : State) : (beginPass s).result1 = s.result1 := rfl
@[simp] theorem beginPass_mbCount (s : State) : (beginPass s).mbCount = 0 := rfl
@[simp] theorem beginPass_blkCount (s : State) : (beginPass s).blkCount = 0 := rfl
@[simp] theorem beginPass_korder (s : State) : (beginPass s).korder = s.korder := rfl
@[simp] theorem beginPass_qtLuma (s : State) : (beginPass s).qtLuma = s.qtLuma := rfl
@[simp] theorem beginPass_qtChroma (s : State) : (beginPass s).qtChroma = s.qtChroma := rfl
@[simp] theorem beginPass_qtzLuma (s : State) : (beginPass s).qtzLuma = s.qtzLuma := rfl
@[simp] theorem beginPass_qtzChroma (s : State) : (beginPass s).qtzChroma = s.qtzChroma := rfl
@[simp] theorem beginPass_kernel (s : State) : (beginPass s).kernel = s.kernel := rfl
@[simp] theorem beginPass_op (s : State) : (beginPass s).op = s.op := rfl
@[simp] theorem beginPass_arg (s : State) : (beginPass s).arg = s.arg := rfl
@[simp] theorem beginPass_latched (s : State) : (beginPass s).latched = s.latched := rfl
@[simp] theorem beginPass_seq (s : State) : (beginPass s).seq = some Sequencer.start := rfl
@[simp] theorem beginPass_mem (s : State) : (beginPass s).mem = s.mem := rfl
@[simp] theorem beginPass_moves (s : State) : (beginPass s).moves = s.moves := rfl
@[simp] theorem beginPass_stream (s : State) : (beginPass s).stream = s.stream := rfl
@[simp] theorem beginPass_hostData (s : State) : (beginPass s).hostData = s.hostData := rfl
@[simp] theorem beginPass_raced (s : State) : (beginPass s).raced = s.raced := rfl
@[simp] theorem beginPass_draws (s : State) : (beginPass s).draws = s.draws := rfl

@[simp] theorem offer_params (ev : WriterEvent) (q : Sequencer) (s : State) : (offer ev q s).params = s.params := rfl
@[simp] theorem offer_cmd (ev : WriterEvent) (q : Sequencer) (s : State) : (offer ev q s).cmd = s.cmd := rfl
@[simp] theorem offer_busy (ev : WriterEvent) (q : Sequencer) (s : State) : (offer ev q s).busy = s.busy := rfl
@[simp] theorem offer_done (ev : WriterEvent) (q : Sequencer) (s : State) : (offer ev q s).done = s.done := rfl
@[simp] theorem offer_err (ev : WriterEvent) (q : Sequencer) (s : State) : (offer ev q s).err = s.err := rfl
@[simp] theorem offer_ovr (ev : WriterEvent) (q : Sequencer) (s : State) : (offer ev q s).ovr = s.ovr := rfl
@[simp] theorem offer_errCode (ev : WriterEvent) (q : Sequencer) (s : State) :
    (offer ev q s).errCode = s.errCode := rfl
@[simp] theorem offer_kvalid (ev : WriterEvent) (q : Sequencer) (s : State) : (offer ev q s).kvalid = s.kvalid := rfl
@[simp] theorem offer_qvalid (ev : WriterEvent) (q : Sequencer) (s : State) : (offer ev q s).qvalid = s.qvalid := rfl
@[simp] theorem offer_doneIe (ev : WriterEvent) (q : Sequencer) (s : State) : (offer ev q s).doneIe = s.doneIe := rfl
@[simp] theorem offer_csr (ev : WriterEvent) (q : Sequencer) (s : State) : (offer ev q s).csr = s.csr := rfl
@[simp] theorem offer_result0 (ev : WriterEvent) (q : Sequencer) (s : State) :
    (offer ev q s).result0 = s.result0 := rfl
@[simp] theorem offer_result1 (ev : WriterEvent) (q : Sequencer) (s : State) :
    (offer ev q s).result1 = s.result1 := rfl
@[simp] theorem offer_mbCount (ev : WriterEvent) (q : Sequencer) (s : State) :
    (offer ev q s).mbCount = s.mbCount := rfl
@[simp] theorem offer_blkCount (ev : WriterEvent) (q : Sequencer) (s : State) :
    (offer ev q s).blkCount = s.blkCount := rfl
@[simp] theorem offer_korder (ev : WriterEvent) (q : Sequencer) (s : State) : (offer ev q s).korder = s.korder := rfl
@[simp] theorem offer_qtLuma (ev : WriterEvent) (q : Sequencer) (s : State) : (offer ev q s).qtLuma = s.qtLuma := rfl
@[simp] theorem offer_qtChroma (ev : WriterEvent) (q : Sequencer) (s : State) :
    (offer ev q s).qtChroma = s.qtChroma := rfl
@[simp] theorem offer_qtzLuma (ev : WriterEvent) (q : Sequencer) (s : State) :
    (offer ev q s).qtzLuma = s.qtzLuma := rfl
@[simp] theorem offer_qtzChroma (ev : WriterEvent) (q : Sequencer) (s : State) :
    (offer ev q s).qtzChroma = s.qtzChroma := rfl
@[simp] theorem offer_kernel (ev : WriterEvent) (q : Sequencer) (s : State) : (offer ev q s).kernel = s.kernel := rfl
@[simp] theorem offer_op (ev : WriterEvent) (q : Sequencer) (s : State) : (offer ev q s).op = s.op := rfl
@[simp] theorem offer_arg (ev : WriterEvent) (q : Sequencer) (s : State) : (offer ev q s).arg = s.arg := rfl
@[simp] theorem offer_latched (ev : WriterEvent) (q : Sequencer) (s : State) :
    (offer ev q s).latched = s.latched := rfl
@[simp] theorem offer_seq (ev : WriterEvent) (q : Sequencer) (s : State) :
    (offer ev q s).seq = some { q with pending := some ev } := rfl
@[simp] theorem offer_mem (ev : WriterEvent) (q : Sequencer) (s : State) : (offer ev q s).mem = s.mem := rfl
@[simp] theorem offer_moves (ev : WriterEvent) (q : Sequencer) (s : State) : (offer ev q s).moves = s.moves := rfl
@[simp] theorem offer_stream (ev : WriterEvent) (q : Sequencer) (s : State) :
    (offer ev q s).stream = s.stream ++ [ev] := rfl
@[simp] theorem offer_hostData (ev : WriterEvent) (q : Sequencer) (s : State) :
    (offer ev q s).hostData = s.hostData := rfl
@[simp] theorem offer_raced (ev : WriterEvent) (q : Sequencer) (s : State) : (offer ev q s).raced = s.raced := rfl
@[simp] theorem offer_draws (ev : WriterEvent) (q : Sequencer) (s : State) : (offer ev q s).draws = s.draws := rfl

end Sys2Proof.Machine
end

