-- ==== Sys2Proof/Laws/Ops.lean ====
section
/-! SUPPORT. What each shared operation can do: the checks, the two ends of a command, output buffers and races. -/

namespace Sys2Proof.Machine

@[simp] theorem firstError_nil : firstError [] = none := rfl

theorem firstError_cons (b : Bool) (c : ErrorCode) (l : List (Bool × ErrorCode)) :
    firstError ((b, c) :: l) = if b then some c else firstError l := rfl

/-- No error is found exactly when no condition holds. -/
theorem firstError_eq_none {l : List (Bool × ErrorCode)} : firstError l = none ↔ ∀ p ∈ l, p.1 = false := by
  induction l with
  | nil => simp
  | cons p l ih =>
    obtain ⟨b, c⟩ := p
    rw [firstError_cons]
    cases b <;> simp [ih]

/-- An error that is found is one of those listed, and its condition holds. -/
theorem mem_of_firstError {l : List (Bool × ErrorCode)} {c : ErrorCode} (h : firstError l = some c) : (true, c) ∈ l := by
  induction l with
  | nil => simp at h
  | cons p l ih =>
    obtain ⟨b, d⟩ := p
    rw [firstError_cons] at h
    cases b
    · exact List.mem_cons_of_mem _ (ih (by simpa using h))
    · simp at h; simp [h]

@[simp] theorem conclude_none (f : State → State) (s : State) : conclude none f s = complete (f s) := rfl

@[simp] theorem conclude_some (c : ErrorCode) (f : State → State) (s : State) :
    conclude (some c) f s = raiseError c s := rfl

/-- A command ends with the error its checks found, or with its whole effect. -/
theorem conclude_cases (check : Option ErrorCode) (f : State → State) (s : State) :
    (∃ c, check = some c ∧ conclude check f s = raiseError c s) ∨
      (check = none ∧ conclude check f s = complete (f s)) := by
  cases check <;> simp

theorem inRange_iff {s : State} {b : Buffer} : inRange s b = true ↔ b.len = 0 ∨ b.base + b.len ≤ s.params.memSize := by
  simp [inRange]

theorem overlaps_iff {b c : Buffer} :
    overlaps b c = true ↔ 0 < b.len ∧ 0 < c.len ∧ b.base < c.base + c.len ∧ c.base < b.base + b.len := by
  simp [overlaps]

theorem mem_addresses {b : Buffer} {a : Nat} : a ∈ addresses b ↔ b.base ≤ a ∧ a < b.base + b.len := by
  simp only [addresses, List.mem_map, List.mem_range]
  exact ⟨fun ⟨k, hk, h⟩ => by omega, fun h => ⟨a - b.base, by omega, by omega⟩⟩

theorem racedAt_iff {s : State} {a : Nat} : racedAt s a = true ↔ a ∈ s.raced := by simp [racedAt]

/-- An output byte is a race exactly when the host wrote it, or a byte it is computed from. -/
theorem tainted_iff {s : State} {base : Nat} {srcs : Nat → List Nat} {j : Nat} :
    tainted s base srcs j = true ↔ base + j ∈ s.raced ∨ ∃ a ∈ srcs j, a ∈ s.raced := by
  simp only [tainted, Bool.and_eq_true, Bool.or_eq_true, List.any_eq_true, racedAt_iff]
  refine ⟨fun h => h.2, fun h => ⟨?_, h⟩⟩
  cases hr : s.raced with
  | nil => simp [hr] at h
  | cons => rfl

theorem settled_of_not_tainted {s : State} {base : Nat} {srcs : Nat → List Nat} {j : Nat} (f : Nat → Byte)
    (h : ¬(base + j ∈ s.raced ∨ ∃ a ∈ srcs j, a ∈ s.raced)) : settled s base srcs f j = f j := by
  rw [settled, if_neg (by rwa [tainted_iff])]

/-- With no host write while busy, every output byte is what the command computes. -/
theorem settled_of_raced_nil {s : State} (h : s.raced = []) (base : Nat) (srcs : Nat → List Nat) (f : Nat → Byte)
    (j : Nat) : settled s base srcs f j = f j := settled_of_not_tainted f (by simp [h])

/-- A byte after an output buffer is written. -/
theorem read_storeBuffer (base n : Nat) (srcs : Nat → List Nat) (f : Nat → Byte) (s : State) (a : Nat) :
    Memory.read (storeBuffer base n srcs f s).mem a =
      if base ≤ a ∧ a < base + n then settled s base srcs f (a - base) else Memory.read s.mem a :=
  Memory.read_writeBytes_range ..

/-- A byte outside an output buffer stays. -/
theorem read_storeBuffer_outside {base n a : Nat} (h : ¬(base ≤ a ∧ a < base + n)) (srcs : Nat → List Nat)
    (f : Nat → Byte) (s : State) : Memory.read (storeBuffer base n srcs f s).mem a = Memory.read s.mem a := by
  rw [read_storeBuffer, if_neg h]

theorem wf_storeBuffer {s : State} (h : Memory.wf s.mem) (base n : Nat) (srcs : Nat → List Nat) (f : Nat → Byte) :
    Memory.wf (storeBuffer base n srcs f s).mem := Memory.wf_writeBytes _ h _

/-- The two bytes of a coefficient make it up again, the low byte at the lower address. -/
theorem coeffByte_append (v : Coeff) : (coeffByte v 1 ++ coeffByte v 0 : Coeff) = v := by
  ext i hi
  simp only [coeffByte, BitVec.getElem_append]
  split
  · simp [BitVec.getLsbD_eq_getElem hi]
  · next h => simp [show 8 + (i - 8) = i by omega, BitVec.getLsbD_eq_getElem hi]

/-- Coefficient `k` of an output block of coefficients with no race in its two bytes. -/
theorem read16_storeBuffer {s : State} {base n k : Nat} (hk : 2 * k + 1 < n) (srcs : Nat → List Nat)
    (c : Nat → Coeff)
    (h : ∀ j, j = 2 * k ∨ j = 2 * k + 1 → ¬(base + j ∈ s.raced ∨ ∃ a ∈ srcs j, a ∈ s.raced)) :
    Memory.read16 (storeBuffer base n srcs (fun j => coeffByte (c (j / 2)) (j % 2)) s).mem (base + 2 * k) = c k := by
  rw [Memory.read16, read_storeBuffer, read_storeBuffer, if_pos (by omega), if_pos (by omega),
    show base + 2 * k + 1 - base = 2 * k + 1 by omega, show base + 2 * k - base = 2 * k by omega,
    settled_of_not_tainted _ (h _ (.inr rfl)), settled_of_not_tainted _ (h _ (.inl rfl))]
  simp only [show (2 * k + 1) / 2 = k by omega, show 2 * k / 2 = k by omega, show (2 * k + 1) % 2 = 1 by omega,
    show 2 * k % 2 = 0 by omega]
  exact coeffByte_append _

/-- An entry of a table given by its positions. -/
theorem entry_ofFn {w : Nat} (f : Fin 64 → BitVec w) {k : Nat} (h : k < 64) : entry (Vector.ofFn f) k = f ⟨k, h⟩ := by
  simp [entry, h]

theorem kernelAt_kernelOf (n : Nat) {i j : Nat} (hi : i < 8) (hj : j < 8) :
    kernelAt (kernelOf n) i j = if i < n ∧ j < n then kval n i j else 0#64 := by
  rw [kernelAt, if_pos ⟨hi, hj⟩, kernelOf, entry_ofFn _ (by omega)]
  simp only [show (8 * i + j) / 8 = i by omega, show (8 * i + j) % 8 = j by omega]

end Sys2Proof.Machine
end

