-- ==== Sys2Proof/Laws/Engine.lean ====
section
/-! SUPPORT. What a meaning, the core's step, each move and a step can do, said once: the check and the effect of every
command, and the cases of every step. -/

namespace Sys2Proof.Machine

/-- The check of each command that runs in one step, as its rule orders it. -/
def checkOf (i : Instr) (s : State) : Option ErrorCode :=
  match i with
  | .genbasis n => genbasisCheck n
  | .xform | .xformLs => xformCheck s
  | .qscale _ | .qtbuild => none
  | .quantY | .quantC => quantCheck s
  | .zigzag => zigzagCheck false false s
  | .zigzagB => zigzagCheck true false s
  | .zigzagT => zigzagCheck false true s
  | .zigzagBT => zigzagCheck true true s
  | .extend => extendCheck s
  | .crop => cropCheck s
  | .encode => encodeCheck s

/-- The effect of each command that runs in one step. -/
def effectOf (i : Instr) (s : State) : State :=
  match i with
  | .genbasis n => buildKernel n s
  | .xform | .xformLs => xformEffect s
  | .qscale b => qscaleEffect b s
  | .qtbuild => buildTables s
  | .quantY => quantEffect s.qtLuma s
  | .quantC => quantEffect s.qtChroma s
  | .zigzag => zigzagEffect false false s
  | .zigzagB => zigzagEffect true false s
  | .zigzagT => zigzagEffect false true s
  | .zigzagBT => zigzagEffect true true s
  | .extend => extendEffect s
  | .crop => cropEffect s
  | .encode => s

/-- Every command but ENCODE is its check and its effect. -/
theorem exec_eq {i : Instr} (h : i ≠ .encode) (s : State) :
    exec i s = .next (conclude (checkOf i s) (fun _ => effectOf i s) s) := by
  cases i with
  | encode => exact absurd rfl h
  | _ => simp only [exec, execGenbasis, execXform, execXformLs, execQscale, execQtbuild, execQuantY, execQuantC, execZigzag,
      execZigzagB, execZigzagT, execZigzagBT, execExtend, execCrop, conclude, checkOf, effectOf]

/-- ENCODE that fails a check raises its error; else its pass begins with the tables rebuilt and HEADER offered. -/
theorem exec_encode (s : State) :
    (∃ c, encodeCheck s = some c ∧ exec .encode s = .next (raiseError c s)) ∨
      (encodeCheck s = none ∧ exec .encode s = .next (offer .header { Sequencer.start with phase := .hdrEvents }
        { buildTables (beginPass s) with seq := some { Sequencer.start with phase := .hdrEvents } })) := by
  cases h : encodeCheck s with
  | some c => exact .inl ⟨c, rfl, by simp only [exec, execEncode, h]⟩
  | none => exact .inr ⟨rfl, by simp only [exec, execEncode, h]; rfl⟩

/-- Every meaning ends with an error its check found, with its whole effect, or with a pass begun. -/
theorem exec_cases (i : Instr) (s : State) :
    (∃ c, checkOf i s = some c ∧ exec i s = .next (raiseError c s)) ∨
    (i ≠ .encode ∧ checkOf i s = none ∧ exec i s = .next (complete (effectOf i s))) ∨
    (i = .encode ∧ checkOf i s = none ∧ exec i s = .next (offer .header { Sequencer.start with phase := .hdrEvents }
      { buildTables (beginPass s) with seq := some { Sequencer.start with phase := .hdrEvents } })) := by
  by_cases hi : i = .encode
  · subst hi
    exact (exec_encode s).imp_right fun h => .inr ⟨rfl, h⟩
  · rw [exec_eq hi]
    cases h : checkOf i s with
    | some c => exact .inl ⟨c, rfl, by rw [conclude_some]⟩
    | none => exact .inr (.inl ⟨hi, rfl, by rw [conclude_none]⟩)

/-- A check finds only the errors its command can end with. -/
theorem checkOf_mem {i : Instr} {s : State} {c : ErrorCode} (h : checkOf i s = some c) : c ∈ possibleErrors i := by
  cases i <;>
    simp only [checkOf, genbasisCheck, xformCheck, quantCheck, zigzagCheck, extendCheck, cropCheck, encodeCheck] at h <;>
    first | (have := mem_of_firstError h; simp [possibleErrors] at this ⊢; tauto) | cases h

/-- No command ends with an error whose code is NONE. -/
theorem ne_noError {i : Instr} {c : ErrorCode} (h : c ∈ possibleErrors i) : c ≠ .noError := by
  cases i <;> simp [possibleErrors] at h <;> rcases h with h | h | h <;> simp_all

/-- ZIGZAG's effect touches data memory alone. -/
theorem zigzagEffect_frame (b t : Bool) (s : State) :
    zigzagEffect b t s = { s with mem := (zigzagEffect b t s).mem } := by
  cases b <;> cases t <;>
    simp only [zigzagEffect, zigzagBlockEffect, zigzagTableEffect, storeBuffer, if_true, if_false, Bool.false_eq_true]

/-- All that a command's effect can touch: the kernel, the tables, the RESULT registers and data memory. -/
theorem effectOf_frame (i : Instr) (s : State) :
    effectOf i s = { s with
      kernel := (effectOf i s).kernel, korder := (effectOf i s).korder, kvalid := (effectOf i s).kvalid,
      qtLuma := (effectOf i s).qtLuma, qtChroma := (effectOf i s).qtChroma, qtzLuma := (effectOf i s).qtzLuma,
      qtzChroma := (effectOf i s).qtzChroma, qvalid := (effectOf i s).qvalid, result0 := (effectOf i s).result0,
      result1 := (effectOf i s).result1, mem := (effectOf i s).mem } := by
  cases i
  case zigzag | zigzagB | zigzagT | zigzagBT => simp only [effectOf]; rw [zigzagEffect_frame]
  all_goals rfl

/-- A command with no buffer to store to leaves data memory as it is. -/
theorem effectOf_mem_of_no_buffer {i : Instr} {s : State} (h : storedBuffers i s = []) : (effectOf i s).mem = s.mem := by
  cases i
  case genbasis | qscale | qtbuild | zigzag | encode => rfl
  all_goals exact absurd h (List.cons_ne_nil _ _)

/-- A command's effect leaves every byte outside the buffers it stores to. -/
theorem read_effectOf_outside {i : Instr} {s : State} {a : Nat}
    (h : ∀ b ∈ storedBuffers i s, ¬(b.base ≤ a ∧ a < b.base + b.len)) :
    Memory.read (effectOf i s).mem a = Memory.read s.mem a := by
  cases i
  case genbasis | qscale | qtbuild | zigzag | encode => rfl
  case zigzagBT =>
    exact (read_storeBuffer_outside (h (zigzagTableBuffer true s) (by simp [storedBuffers])) _ _ _).trans
      (read_storeBuffer_outside (h (zigzagBlockBuffer true s) (by simp [storedBuffers])) _ _ _)
  all_goals exact read_storeBuffer_outside (h _ (List.mem_singleton.mpr rfl)) _ _ _

/-- Acceptance stores the whole word: the core later checks what the host wrote. -/
@[simp] theorem commandWord_accept (w : Word) (s : State) : commandWord (accept w s) = w := by
  simp only [commandWord, accept_cmd, accept_arg, accept_op, rsvField, opField, aField]
  ext i hi
  simp only [BitVec.getElem_append, BitVec.getElem_extractLsb']
  split
  · split
    · simp [BitVec.getLsbD_eq_getElem hi]
    · rw [show 8 + (i - 8) = i by omega, BitVec.getLsbD_eq_getElem hi]
  · rw [show 16 + (i - (8 + 8)) = i by omega, BitVec.getLsbD_eq_getElem hi]

/-- All that the core's step of a pass can touch: the tables, the kernel, the sequencer and the stream. -/
theorem passStep_frame (s : State) :
    passStep s = { s with
      kernel := (passStep s).kernel, korder := (passStep s).korder, kvalid := (passStep s).kvalid,
      qtLuma := (passStep s).qtLuma, qtChroma := (passStep s).qtChroma, qtzLuma := (passStep s).qtzLuma,
      qtzChroma := (passStep s).qtzChroma, qvalid := (passStep s).qvalid, seq := (passStep s).seq,
      stream := (passStep s).stream } := by
  unfold passStep
  split
  · rfl
  · split
    · rfl
    · split <;> rfl

/-- An answer of the sink ends the pass with WRITER_FAIL, or takes the offered event; else no event was offered. -/
theorem sinkAnswer_cases (a : Answer) (s : State) :
    (∃ q ev, s.seq = some q ∧ q.pending = some ev ∧
      ((a = .accept ∧ sinkAnswer a s = .next (eventAccepted q s)) ∨
        (a = .fail ∧ sinkAnswer a s = .next (raiseError .writerFail s)))) ∨
    ((∀ q, s.seq = some q → q.pending = none) ∧ sinkAnswer a s = .fault .answerWithoutEvent) := by
  unfold sinkAnswer
  cases hs : s.seq with
  | none => exact .inr ⟨fun q h => (by cases h), rfl⟩
  | some q =>
    cases hp : q.pending with
    | none => exact .inr ⟨fun q' h => (by cases h; exact hp), by simp only [hp]⟩
    | some ev =>
      refine .inl ⟨q, ev, rfl, hp, ?_⟩
      cases a <;> simp [hp]

/-- An accepted event completes the pass (FINISH), or changes only the counters and the sequencer. -/
theorem eventAccepted_cases (q : Sequencer) (s : State) :
    (q.phase = .finishing ∧ eventAccepted q s = complete s) ∨
    (q.phase = .blocks ∧ eventAccepted q s = { s with
      blkCount := s.blkCount + 1, mbCount := if q.e = 5 then s.mbCount + 1 else s.mbCount,
      seq := some (nextPosition { q with pending := none }) }) ∨
    (q.phase ≠ .finishing ∧ q.phase ≠ .blocks ∧ ∃ q', eventAccepted q s = { s with seq := some q' }) := by
  unfold eventAccepted
  cases h : q.phase <;> simp

/-- In a pass, the event offered is a block event exactly in phase BLOCKS, and a BLOCK_V exactly at e = 5 there. -/
theorem passOk_offered_kind {s : State} {q : Sequencer} {ev : WriterEvent} (h : PassOk s) (hq : s.seq = some q)
    (he : q.pending = some ev) :
    (q.phase = .blocks → (ev.kind = 4#3 ∨ ev.kind = 5#3 ∨ ev.kind = 6#3) ∧ (ev.kind = 6#3 ↔ q.e = 5)) ∧
      (q.phase ≠ .blocks → ¬(ev.kind = 4#3 ∨ ev.kind = 5#3 ∨ ev.kind = 6#3)) := by
  obtain ⟨-, -, -, -, -, h⟩ := h q hq
  unfold sequencerOk at h
  cases hp : q.phase <;> simp only [hp] at h
  case blocks =>
    obtain ⟨-, -, -, -, -, h5, -, -, hk⟩ := h
    refine ⟨fun _ => ?_, fun hb => absurd rfl hb⟩
    rw [hk ev he, blockKind]
    split
    · simp; omega
    · split <;> simp <;> omega
  case hdrEvents =>
    refine ⟨(fun hb => by cases hb), fun _ => ?_⟩
    rw [h.2.2.2 ev he]
    have := h.1
    generalize q.hdr = n at this
    interval_cases n <;> decide
  case prepare => rw [h.2.2] at he; cases he
  case kernelBuild => rw [h.2.2.1] at he; cases he
  case finishing =>
    refine ⟨(fun hb => by cases hb), fun _ => ?_⟩
    rw [h.2.2.2.2.2 ev he]; decide

/-- Idle, the core waits. -/
theorem coreStep_idle {s : State} (h : s.busy = false) : coreStep s = .next s := by simp [coreStep, h]

/-- In a pass, the core goes on with it. -/
theorem coreStep_pass {s : State} {q : Sequencer} (h : s.busy = true) (hq : s.seq = some q) :
    coreStep s = .next (passStep s) := by simp [coreStep, h, hq]

/-- A legal word runs. -/
theorem coreStep_run {s : State} {i : Instr} (h : s.busy = true) (hq : s.seq = none)
    (hi : decode (commandWord s) = .ok i) : coreStep s = exec i s := by simp [coreStep, h, hq, hi]

/-- An illegal word ends with ILLEGAL_CMD. -/
theorem coreStep_illegal {s : State} {e : Illegal} (h : s.busy = true) (hq : s.seq = none)
    (he : decode (commandWord s) = .error e) : coreStep s = .next (raiseError .illegalCmd s) := by
  simp [coreStep, h, hq, he]

/-- What the core's step can be. -/
theorem coreStep_cases (s : State) :
    (s.busy = false ∧ coreStep s = .next s) ∨
    (s.busy = true ∧ (∃ q, s.seq = some q) ∧ coreStep s = .next (passStep s)) ∨
    (s.busy = true ∧ s.seq = none ∧ (∃ i, decode (commandWord s) = .ok i ∧ coreStep s = exec i s)) ∨
    (s.busy = true ∧ s.seq = none ∧ (∃ e, decode (commandWord s) = .error e) ∧
      coreStep s = .next (raiseError .illegalCmd s)) := by
  cases hb : s.busy with
  | false => exact .inl ⟨rfl, coreStep_idle hb⟩
  | true =>
    cases hq : s.seq with
    | some q => exact .inr (.inl ⟨rfl, ⟨q, rfl⟩, coreStep_pass hb hq⟩)
    | none =>
      cases hd : decode (commandWord s) with
      | ok i => exact .inr (.inr (.inl ⟨rfl, rfl, i, rfl, coreStep_run hb hq hd⟩))
      | error e => exact .inr (.inr (.inr ⟨rfl, rfl, ⟨e, rfl⟩, coreStep_illegal hb hq hd⟩))

/-- What no step of the core touches: the parameters, the command word and arguments, OVR, IEN and the agents' own. -/
theorem coreStep_frame {s t : State} (h : coreStep s = .next t) :
    (t.params = s.params ∧ t.cmd = s.cmd ∧ t.op = s.op ∧ t.arg = s.arg ∧ t.csr = s.csr ∧ t.latched = s.latched) ∧
      t.ovr = s.ovr ∧ t.doneIe = s.doneIe ∧ t.moves = s.moves ∧ t.hostData = s.hostData ∧ t.raced = s.raced ∧
      t.draws = s.draws := by
  rcases coreStep_cases s with ⟨-, e⟩ | ⟨-, -, e⟩ | ⟨-, -, i, -, e⟩ | ⟨-, -, -, e⟩
  · rw [e] at h; cases h; simp
  · rw [e] at h; cases h; rw [passStep_frame]; simp
  · rw [e] at h
    rcases exec_cases i s with ⟨c, -, e⟩ | ⟨-, -, e⟩ | ⟨-, -, e⟩ <;> rw [e] at h <;> cases h
    · simp
    · rw [effectOf_frame]; simp
    · simp
  · rw [e] at h; cases h; simp

/-- A step with no move listed is the core's. -/
theorem step_nil {s : State} (h : s.moves = []) : step s = coreStep s := by simp [step, h]

/-- A step takes the oldest move. -/
theorem step_cons {s : State} {m : Move} {rest : List Move} (h : s.moves = m :: rest) :
    step s = takeMove m { s with moves := rest } := by simp [step, h]

/-- The next step takes the move put first. -/
@[simp] theorem step_withMove (m : Move) (s : State) : step (withMove m s) = takeMove m s := rfl

/-- What a CSR write can do. -/
theorem csrWrite_cases (off : BitVec 12) (bytes : Nat) (v : Word) (s : State) :
    (off = 0x008#12 ∧ bytes = 4 ∧ csrWrite off bytes v s = writeCmd v s) ∨
    (off = 0x00C#12 ∧ bytes = 4 ∧ csrWrite off bytes v s = writeStatus v s) ∨
    (off = 0x010#12 ∧ bytes = 4 ∧ csrWrite off bytes v s = writeIen v s) ∨
    csrWrite off bytes v s = { s with csr := writeArg off.toNat v s.csr } ∨
    csrWrite off bytes v s = s := by
  unfold csrWrite
  split
  · next h =>
    have h4 : bytes = 4 := (of_decide_eq_true h).1
    split
    · next h8 => exact .inl ⟨BitVec.eq_of_toNat_eq h8, h4, rfl⟩
    · next hC => exact .inr (.inl ⟨BitVec.eq_of_toNat_eq hC, h4, rfl⟩)
    · next h10 => exact .inr (.inr (.inl ⟨BitVec.eq_of_toNat_eq h10, h4, rfl⟩))
    · exact .inr (.inr (.inr (.inl rfl)))
  · exact .inr (.inr (.inr (.inr rfl)))

end Sys2Proof.Machine
end

