-- ==== Sys2Proof/Laws/PerInstr.lean ====
section
/-! SUPPORT. Facts made per instruction, one lemma a constructor: the fields of each command's word. -/

namespace Sys2Proof.Laws.EncodedFields

/-- The opcode of each command (R112). -/
def opcode : Instr → Nat
  | .genbasis _ => 1
  | .xform => 2
  | .xformLs => 2
  | .qscale _ => 3
  | .qtbuild => 4
  | .quantY => 5
  | .quantC => 5
  | .zigzag => 6
  | .zigzagB => 6
  | .zigzagT => 6
  | .zigzagBT => 6
  | .extend => 7
  | .crop => 8
  | .encode => 9

/-- The A field of each command (R112, R116). -/
def operand : Instr → Nat
  | .genbasis n => n
  | .qscale b => b
  | .xformLs => 1
  | .quantC => 1
  | .zigzagB => 1
  | .zigzagT => 2
  | .zigzagBT => 3
  | .xform => 0
  | .qtbuild => 0
  | .quantY => 0
  | .zigzag => 0
  | .extend => 0
  | .crop => 0
  | .encode => 0

/-- The word of a command is its opcode and its A field, as a number, when the operand fits (R110, R116). -/
def Statement (i : Instr) : Prop := i.WellFormed → (encode i).toNat = opcode i + 256 * operand i

/-- A word made of an operand and an opcode, as a number. -/
theorem assemble_toNat (op : BitVec 8) {a : Nat} (h : a < 256) :
    (assemble op (BitVec.ofNat 8 a)).toNat = op.toNat + 256 * a := by
  have hop := op.isLt
  simp only [assemble, BitVec.toNat_append, BitVec.toNat_ofNat, Nat.mod_eq_of_lt h]
  rw [Nat.shiftLeft_eq, Nat.shiftLeft_eq, ← Nat.shiftLeft_eq a 8, ← Nat.shiftLeft_add_eq_or_of_lt hop]
  simp [Nat.shiftLeft_eq]
  omega

theorem genbasis (n : Nat) : Statement (.genbasis n) := fun h => assemble_toNat 0x01#8 (of_decide_eq_true h)
theorem xform : Statement .xform := fun _ => by decide
theorem xformLs : Statement .xformLs := fun _ => by decide
theorem qscale (b : Nat) : Statement (.qscale b) := fun h => assemble_toNat 0x03#8 (of_decide_eq_true h)
theorem qtbuild : Statement .qtbuild := fun _ => by decide
theorem quantY : Statement .quantY := fun _ => by decide
theorem quantC : Statement .quantC := fun _ => by decide
theorem zigzag : Statement .zigzag := fun _ => by decide
theorem zigzagB : Statement .zigzagB := fun _ => by decide
theorem zigzagT : Statement .zigzagT := fun _ => by decide
theorem zigzagBT : Statement .zigzagBT := fun _ => by decide
theorem extend : Statement .extend := fun _ => by decide
theorem crop : Statement .crop := fun _ => by decide
theorem encode : Statement .encode := fun _ => by decide

end Sys2Proof.Laws.EncodedFields
end

