-- ==== Sys2Proof/Laws/Plane.lean ====
section
/-! SUPPORT. The samples of the working planes of an ENCODE pass, as bytes of data memory. -/

namespace Sys2Proof.Machine.Plane

theorem sample_range {w h x y : Nat} (f : Nat → Byte) (hx : x < w) (hy : y < h) :
    sample ⟨w, h, (List.range (w * h)).map f⟩ x y = f (y * w + x) := by
  have hlt : y * w + x < w * h := by
    have : (y + 1) * w ≤ h * w := Nat.mul_le_mul_right w hy
    rw [Nat.add_mul, Nat.mul_comm h w] at this
    omega
  simp [sample, hlt]

/-- A sample of a plane of data memory (R82). -/
theorem sample_load (m : Memory) (base : Nat) {w h x y : Nat} (hx : x < w) (hy : y < h) :
    (load m base w h).sample x y = Memory.read m (sampleAddr base w x y) := by
  rw [load, sample_range _ hx hy, sampleAddr, Nat.add_assoc]

/-- A sample of the level-shifted luma plane (R257). -/
theorem sample_shifted_load (m : Memory) (base : Nat) {w h x y : Nat} (hx : x < w) (hy : y < h) :
    (load m base w h).shifted.sample x y = levelShift (Memory.read m (sampleAddr base w x y)) := by
  have := sample_range (fun j => levelShift (Memory.read m (base + j))) hx hy
  simpa [shifted, load, sample, sampleAddr, Nat.add_assoc, Function.comp_def] using this

/-- A sample of a plane padded by edge replication (R226). -/
theorem sample_extendTo (p : Plane) {wo ho x y : Nat} (hx : x < wo) (hy : y < ho) :
    (p.extendTo wo ho).sample x y = p.sample (min x (p.width - 1)) (min y (p.height - 1)) := by
  rw [extendTo, sample_range _ hx hy]
  have hw : 0 < wo := by omega
  simp only [Nat.mul_comm y wo, Nat.mul_add_mod, Nat.mod_eq_of_lt hx, Nat.mul_add_div hw, Nat.div_eq_of_lt hx,
    Nat.add_zero]

end Sys2Proof.Machine.Plane
end

