-- ==== Sys2Proof/Tests/Slice0.lean ====
section
/-! SUPPORT. The model's own tests: ill-formed commands, decoded words, one or two steps a command with results from
spec/95_test_vectors.md, and a witness for every obligation that has hypotheses. -/

namespace Sys2Proof.Tests

open Sys2Proof.Machine

-- One proof at a time: each kernel evaluation waits for those before it, and a waiting proof holds a thread of its own.
set_option Elab.async false

/-! ## Ill-formed commands (spec/30_encoding.md R114 to R116) -/

theorem test_wf_refuses_genbasis_256 : (Instr.genbasis 256).wellFormed = false := by decide
theorem test_wf_refuses_qscale_256 : (Instr.qscale 256).wellFormed = false := by decide
theorem test_wf_keeps_genbasis_0 : (Instr.genbasis 0).wellFormed = true := by decide
theorem test_assembler_refuses_genbasis_0 : (Instr.genbasis 0).assembles = false := by decide
theorem test_assembler_refuses_genbasis_9 : (Instr.genbasis 9).assembles = false := by decide
theorem test_assembler_refuses_qscale_256 : (Instr.qscale 256).assembles = false := by decide
theorem test_assembler_takes_qscale_255 : (Instr.qscale 255).assembles = true := by decide

/-! ## Decoding: each word written out bit by bit as RSV, A and OP (R110, R112) -/

theorem test_decode_genbasis : decode 0b00000000000000000000100000000001#32 = .ok (.genbasis 8) := by decide
theorem test_decode_genbasis_255 : decode 0b00000000000000001111111100000001#32 = .ok (.genbasis 255) := by decide
theorem test_decode_xform : decode 0b00000000000000000000000000000010#32 = .ok .xform := by decide
theorem test_decode_xformLs : decode 0b00000000000000000000000100000010#32 = .ok .xformLs := by decide
theorem test_decode_qscale : decode 0b00000000000000001100100000000011#32 = .ok (.qscale 200) := by decide
theorem test_decode_qtbuild : decode 0b00000000000000000000000000000100#32 = .ok .qtbuild := by decide
theorem test_decode_quantY : decode 0b00000000000000000000000000000101#32 = .ok .quantY := by decide
theorem test_decode_quantC : decode 0b00000000000000000000000100000101#32 = .ok .quantC := by decide
theorem test_decode_zigzag : decode 0b00000000000000000000000000000110#32 = .ok .zigzag := by decide
theorem test_decode_zigzagB : decode 0b00000000000000000000000100000110#32 = .ok .zigzagB := by decide
theorem test_decode_zigzagT : decode 0b00000000000000000000001000000110#32 = .ok .zigzagT := by decide
theorem test_decode_zigzagBT : decode 0b00000000000000000000001100000110#32 = .ok .zigzagBT := by decide
theorem test_decode_extend : decode 0b00000000000000000000000000000111#32 = .ok .extend := by decide
theorem test_decode_crop : decode 0b00000000000000000000000000001000#32 = .ok .crop := by decide
theorem test_decode_encode : decode 0b00000000000000000000000000001001#32 = .ok .encode := by decide
theorem test_decode_op_0 : decode 0#32 = .error .unknownOpcode := by decide
theorem test_decode_op_10 : decode 0x0A#32 = .error .unknownOpcode := by decide
theorem test_decode_op_255 : decode 0xFF#32 = .error .unknownOpcode := by decide
theorem test_decode_rsv : decode 0x00010801#32 = .error .reservedField := by decide
theorem test_decode_rsv_top : decode 0x80000002#32 = .error .reservedField := by decide
theorem test_decode_xform_a1 : decode 0x202#32 = .error .reservedOperandBits := by decide
theorem test_decode_qtbuild_a : decode 0x104#32 = .error .reservedOperandBits := by decide
theorem test_decode_quant_a7 : decode 0x8005#32 = .error .reservedOperandBits := by decide
theorem test_decode_zigzag_a2 : decode 0x406#32 = .error .reservedOperandBits := by decide
theorem test_decode_extend_a : decode 0x107#32 = .error .reservedOperandBits := by decide
theorem test_decode_crop_a : decode 0x8008#32 = .error .reservedOperandBits := by decide
theorem test_decode_encode_a : decode 0x109#32 = .error .reservedOperandBits := by decide
theorem test_decode_table_word : decodeTableWord 32 0x106 = some .zigzagB ∧ decodeTableWord 32 0x10000 = none := by decide

/-! ## One step a command, from the vectors of spec/95_test_vectors.md -/

/-- The machine after reset with these argument CSRs and this data memory. -/
def machine (a : Args) (m : Memory) : State := { State.reset with csr := a, mem := m }

/-- The next step runs the command word `w`, and its result meets `p`. -/
def runs (w : Nat) (s : State) (p : State → Bool) : Bool :=
  match step (s.withFetchWord 32 w) with
  | .next t => p t
  | _ => false

/-- Bytes listed from an address up. -/
def bytesAt : Nat → List Nat → Memory
  | _, [] => []
  | a, b :: bs => if b = 0 then bytesAt (a + 1) bs else (a, BitVec.ofNat 8 b) :: bytesAt (a + 1) bs

/-- The bytes of memory from an address up. -/
def bytesOf (s : State) (a n : Nat) : List Nat := (List.range n).map fun k => (Memory.read s.mem (a + k)).toNat

/-- A state with the order-`n` kernel stored. -/
def withKernel (n : Nat) (s : State) : State := buildKernel n s

/-- A state with the quantization tables of quality 50. -/
def withTables (s : State) : State := buildTables { s with latched := { s.latched with quality := 50 } }

/-- V11: the words of the KERNEL window after GENBASIS 2. -/
theorem test_genbasis_2 : runs 0x201 (machine Args.zero []) (fun t =>
    decide (statusWord t = 0x102 ∧ t.korder = 2 ∧ csrRead t 0x200 4 = 0x667F3BCD ∧ csrRead t 0x204 4 = 0x3FE6A09E ∧
      csrRead t 0x24C 4 = 0xBFE6A09E ∧ csrRead t 0x210 4 = 0)) = true := by decide +kernel

/-- V14: N = 9 ends with BAD_ARG, and the stored kernel stays. -/
theorem test_genbasis_9 : runs 0x901 (withKernel 8 (machine Args.zero [])) (fun t =>
    decide (statusWord t = 0x126 ∧ t.korder = 8 ∧ t.kernel = kernelOf 8)) = true := by decide +kernel

/-- The arguments of a transform. -/
def xformArgs : Args := { Args.zero with src0 := 0x1000, dst := 0x2000 }

/-- V19a, P1: the order-2 transform of 1, 2, 3, 4. -/
theorem test_xform_2 : runs 0x2 (withKernel 2 (machine xformArgs (bytesAt 0x1000 [1, 2, 3, 4]))) (fun t =>
    decide (statusWord t = 0x102) && bytesOf t 0x2000 9 == [5, 0, 0xFF, 0xFF, 0xFE, 0xFF, 0, 0, 0]) = true := by
  decide +kernel

/-- V19b: after reset, NO_KERNEL and no write. -/
theorem test_xform_no_kernel : runs 0x2 (machine xformArgs []) (fun t => decide (statusWord t = 0x036 ∧ t.mem = [])) = true := by
  decide +kernel

/-- V19a and V19b: XFORM.LS computes what XFORM does; N = 1 with the sample −7. -/
theorem test_xformLs : runs 0x102 (withKernel 1 (machine xformArgs (bytesAt 0x1000 [0xF9]))) (fun t =>
    decide (statusWord t = 0x102) && bytesOf t 0x2000 3 == [0xF9, 0xFF, 0]) = true := by decide +kernel

/-- V20: base 55 at quality 49 and at quality 51. -/
theorem test_qscale_49 : runs 0x3703 (machine { Args.zero with quality := 49 } []) (fun t => decide (t.result0 = 56)) = true := by
  decide +kernel

/-- V20: the lowest quality of all is quality 1. -/
theorem test_qscale_min : runs 0x1003 (machine { Args.zero with quality := 0x80000000 } []) (fun t =>
    decide (t.result0 = 255 ∧ t.result1 = 0 ∧ statusWord t = 0x002)) = true := by decide +kernel

/-- V21: the windows at quality 50. -/
theorem test_qtbuild_50 : runs 0x4 (machine { Args.zero with quality := 50 } []) (fun t =>
    decide (statusWord t = 0x202 ∧ csrRead t 0x100 4 = 0x100A0B10 ∧ csrRead t 0x180 4 = 0x0E0C0B10 ∧
      csrRead t 0x140 4 = 0x2F181211 ∧ csrRead t 0x1C0 4 = 0x18121211)) = true := by decide +kernel

/-- V22: quality 75 rounds 11·50/100 up and 10·50/100 to 5. -/
theorem test_qtbuild_75 : runs 0x4 (machine { Args.zero with quality := 75 } []) (fun t =>
    (List.range 8).map (fun k => (entry t.qtLuma k).toNat) == [8, 6, 5, 8, 12, 20, 26, 31]) = true := by decide +kernel

/-- V28: −800, −146 and −15 by QT_LUMA at quality 50. -/
theorem test_quantY : runs 0x5 (withTables (machine { Args.zero with src0 := 0x2000 }
    (bytesAt 0x2000 [0xE0, 0xFC, 0x6E, 0xFF, 0, 0, 0xF1, 0xFF]))) (fun t =>
    bytesOf t 0x2000 8 == [0xCE, 0xFF, 0xF3, 0xFF, 0, 0, 0xFF, 0xFF] && decide (statusWord t = 0x202)) = true := by
  decide +kernel

/-- R190: NO_QTABLE after reset. -/
theorem test_quantY_no_table : runs 0x5 (machine Args.zero []) (fun t => decide (statusWord t = 0x046)) = true := by
  decide +kernel

/-- V28: −800, −146 and −15 by QT_CHROMA at quality 50. -/
theorem test_quantC : runs 0x105 (withTables (machine { Args.zero with src0 := 0x2000 }
    (bytesAt 0x2000 [0xE0, 0xFC, 0x6E, 0xFF, 0, 0, 0xF1, 0xFF]))) (fun t =>
    bytesOf t 0x2000 8 == [0xD1, 0xFF, 0xF8, 0xFF, 0, 0, 0, 0]) = true := by decide +kernel

/-- V31: with B = T = 0 nothing is accessed, whatever the arguments. -/
theorem test_zigzag : runs 0x6 (machine { Args.zero with src0 := 0xFFFFFFFF, src1 := 0xFFFFFFFF } [(5, 1)]) (fun t =>
    decide (statusWord t = 0x002 ∧ t.mem = [(5, 1)])) = true := by decide +kernel

/-- V30: the block of V28 in scan order. -/
theorem test_zigzagB : runs 0x106 (machine { Args.zero with src0 := 0x2000 }
    (bytesAt 0x2000 [0xCE, 0xFF, 0xF3, 0xFF, 0, 0, 0xFF, 0xFF])) (fun t =>
    bytesOf t 0x2000 15 == [0xCE, 0xFF, 0xF3, 0xFF, 0, 0, 0, 0, 0, 0, 0, 0, 0xFF, 0xFF, 0]) = true := by decide +kernel

/-- V4: the gather of the bytes 0..63 is ZZ. -/
theorem test_zigzagT : runs 0x206 (machine { Args.zero with src1 := 0x3000 } (bytesAt 0x3000 (List.range 64))) (fun t =>
    bytesOf t 0x3000 12 == [0, 1, 8, 16, 9, 2, 3, 10, 17, 24, 32, 25] &&
      bytesOf t 0x3038 9 == [53, 60, 61, 54, 47, 55, 62, 63, 0]) = true := by decide +kernel

/-- V32: the table inside the block is OVERLAP. -/
theorem test_zigzagBT_overlap : runs 0x306 (machine { Args.zero with src0 := 0x1000, src1 := 0x1070 } []) (fun t =>
    decide (statusWord t = 0x066)) = true := by decide +kernel

/-- V31: the block and the table, each by its own gather. -/
theorem test_zigzagBT : runs 0x306 (machine { Args.zero with src0 := 0x1000, src1 := 0x1080 }
    ((0x1006, 9) :: bytesAt 0x1080 (List.range 64))) (fun t =>
    bytesOf t 0x100C 2 == [9, 0] && bytesOf t 0x1080 5 == [0, 1, 8, 16, 9]) = true := by decide +kernel

/-- The arguments of V33a. -/
def extendArgs : Args :=
  { Args.zero with src0 := 0x1000, width := 3, height := 2, bsize := 4, dst := 0x2000, dstlen := 16 }

/-- V33a: rows `1 2 3 / 4 5 6` padded to 4×4. -/
theorem test_extend : runs 0x7 (machine extendArgs (bytesAt 0x1000 [1, 2, 3, 4, 5, 6])) (fun t =>
    bytesOf t 0x2000 17 == [1, 2, 3, 3, 4, 5, 6, 6, 4, 5, 6, 6, 4, 5, 6, 6, 0] &&
      decide (t.result0 = 4 ∧ t.result1 = 4 ∧ statusWord t = 0x002)) = true := by decide +kernel

/-- V33a: a capacity of 15 is ADDR_RANGE, with nothing written. -/
theorem test_extend_capacity : runs 0x7 (machine { extendArgs with dstlen := 15 } []) (fun t =>
    decide (statusWord t = 0x056 ∧ t.result0 = 0 ∧ t.mem = [])) = true := by decide +kernel

/-- V33d: the corner of the padded plane is the plane. -/
theorem test_crop : runs 0x8 (machine { Args.zero with src0 := 0x2000, width := 4, height := 4, neww := 3, newh := 2, dst := 0x3000 }
    (bytesAt 0x2000 [1, 2, 3, 3, 4, 5, 6, 6, 4, 5, 6, 6, 4, 5, 6, 6])) (fun t =>
    bytesOf t 0x3000 7 == [1, 2, 3, 4, 5, 6, 0] && decide (t.result0 = 0)) = true := by decide +kernel

/-- V33d: NEWW = 5 > W = 4 is BAD_ARG. -/
theorem test_crop_bad_arg : runs 0x8 (machine { Args.zero with width := 4, height := 4, neww := 5 } []) (fun t =>
    decide (statusWord t = 0x026)) = true := by decide +kernel

/-- The arguments of P4. -/
def encodeArgs : Args :=
  { Args.zero with src0 := 0x1000, src1 := 0x2000, src2 := 0x3000, width := 16, height := 16, quality := 50 }

/-- P5: with HEADER held, STATUS shows BUSY and QVALID. -/
theorem test_encode_header : runs 0x9 (machine encodeArgs []) (fun t =>
    decide (statusWord t = 0x201 ∧ t.stream = [.header] ∧ t.mbCount = 0)) = true := by decide +kernel

/-- V43: W = 1 is BAD_ARG, with no event. -/
theorem test_encode_bad_arg : runs 0x9 (machine { encodeArgs with width := 1 } []) (fun t =>
    decide (statusWord t = 0x026 ∧ t.stream = [] ∧ t.qvalid = false)) = true := by decide +kernel

/-- A pass of the image of P4 at quality 50 that offers the event at index `e` of its only macroblock, its planes of
one value each. -/
def passAt (e : Nat) : State :=
  { withKernel 8 (withTables (accept 0x9 (machine encodeArgs []))) with
    seq := some { Sequencer.start with
      phase := .blocks, wp := 16, hp := 16, cwp := 8, chp := 8, mbw := 1, mbh := 1, e := e,
      yp := ⟨16, 16, List.replicate 256 8⟩, up := ⟨8, 8, List.replicate 64 16⟩, vp := ⟨8, 8, List.replicate 64 0xF0⟩ } }

/-- V34: the DC of the first BLOCK_Y is 4. -/
theorem test_pass_block : (match step (passAt 0) with
    | .next t => (match t.stream with | [.blockY c] => decide (entry c 0 = 4) | _ => false)
    | _ => false) = true := by decide +kernel

/-- V34: the DC of BLOCK_V is −8. -/
theorem test_pass_block_v : (match step (passAt 5) with
    | .next t => (match t.stream with | [.blockV c] => decide (entry c 0 = -8) | _ => false)
    | _ => false) = true := by decide +kernel

/-! ## The host, acceptance and reset -/

/-- The next step takes one move, and its result meets `p`. -/
def moves (m : Move) (s : State) (p : State → Bool) : Bool :=
  match step (withMove m s) with
  | .next t => p t
  | _ => false

/-- P5: a word dropped while BUSY sets OVR, and CMD keeps the running command's word. -/
theorem test_dropped_write : moves (csrw 0x008 0x801) (accept 0x9 State.reset) (fun t =>
    decide (statusWord t = 0x009 ∧ csrRead t 0x008 4 = 0x9)) = true := by decide

/-- V45: IEN keeps bit 0 alone. -/
theorem test_ien_write : moves (csrw 0x010 0xFFFFFFFF) State.reset (fun t => decide (csrRead t 0x010 4 = 1)) = true := by
  decide

/-- V45: a write of 2 to STATUS after an error clears DONE and leaves ERR and ERRCODE. -/
theorem test_status_write : moves (csrw 0x00C 2) (raiseError .badArg State.reset) (fun t =>
    decide (statusWord t = 0x024)) = true := by decide

/-- V45: writes to ID, RESULT0, KORDER and a reserved offset change nothing. -/
theorem test_read_only : ∀ off ∈ [0x000#12, 0x060#12, 0x070#12, 0x014#12],
    moves (csrw off 0xFFFFFFFF) State.reset (fun t => decide (t = State.reset)) = true := by decide

/-- V44: a reserved word after reset is ILLEGAL_CMD. -/
theorem test_illegal_word : moves .core (accept 0x80000002 State.reset) (fun t => decide (statusWord t = 0x016)) = true := by
  decide

/-- P6: reset during a stalled pass leaves STATUS 0 and memory alone. -/
theorem test_reset_in_pass : moves .reset { passAt 1 with mem := [(7, 9)], blkCount := 1 } (fun t =>
    decide (statusWord t = 0 ∧ t.blkCount = 0 ∧ t.cmd = 0 ∧ t.mem = [(7, 9)])) = true := by decide +kernel

/-- V40: FAIL leaves DONE, ERR, code 7 and the counters. -/
theorem test_writer_fail :
    moves (.sink .fail) { passAt 1 with blkCount := 1, seq := (passAt 1).seq.map fun q => { q with pending := some .huffman } }
      (fun t => decide (statusWord t = 0x376 ∧ t.blkCount = 1 ∧ t.mbCount = 0)) = true := by decide +kernel

/-- R90: a host read of an idle block's data memory is the byte. -/
theorem test_host_read : moves (.host (.memRead 7)) { State.reset with mem := [(7, 9)] } (fun t => decide (t.hostData = 9)) = true := by
  decide

/-- V27: ties of the quantizer go toward +∞. -/
theorem test_qround_ties : qround (-3) 2 = -1 ∧ qround 3 2 = 2 ∧ qround (-7) 14 = 0 ∧ qround 7 14 = 1 ∧ qround (-26) 16 = -2 := by
  decide

/-- V15: the tie at (0, 0) of the sample −4 goes to −1, as binary64 has it. -/
theorem test_dct_tie : dctEval 8 (kernelOf 8) (fun r c => if r = 0 ∧ c = 0 then -4 else 0) 0 0 = -1 := by decide +kernel


/-! ## Witnesses: for each obligation with hypotheses, a state and operands that meet them all, clause by clause -/

/-- The accepted command of an idle machine after reset. -/
def accepted (i : Instr) (s : State) : State := accept (encode i) s

theorem witness_DecodeOfEncode : (Instr.genbasis 255).WellFormed ∧ (Instr.genbasis 0).WellFormed ∧ (Instr.qscale 255).WellFormed := by
  decide

theorem witness_EncodeOfDecode : decode 0x306#32 = .ok .zigzagBT := by decide

theorem witness_IllegalWordsEndWithIllegalCmd :
    (accept 0x80000002 State.reset).busy = true ∧ (accept 0x80000002 State.reset).seq = none ∧
      decode (commandWord (accept 0x80000002 State.reset)) = .error .reservedField ∧ 8 < 9 ∧ 9 < 256 := by decide

theorem witness_StepRunsTheAcceptedCommand :
    (accepted .xform State.reset).busy = true ∧ (accepted .xform State.reset).seq = none ∧
      decode (commandWord (accepted .xform State.reset)) = .ok .xform ∧ (accepted .xform State.reset).moves = [] ∧
      decode (commandWord (accept 0xA State.reset)) = .error .unknownOpcode := by decide

theorem witness_WrittenCommandRuns : (Instr.genbasis 0).WellFormed ∧ State.reset.busy = false := by decide

theorem witness_CmdWriteIsAcceptedOrDropped : State.reset.busy = false ∧ (accepted .encode State.reset).busy = true := by decide

theorem witness_OvrStaysUntilCleared :
    (accepted .encode State.reset).busy = true ∧
      step (withMove (csrw 0x00C 8) { State.reset with ovr := true }) = .next State.reset ∧
      (withMove (csrw 0x00C 8) { State.reset with ovr := true }).ovr = true ∧ State.reset.ovr = false ∧
      ∃ t, step (withMove .reset { State.reset with ovr := true }) = .next t ∧ t.ovr = false :=
  ⟨rfl, rfl, rfl, rfl, _, rfl, rfl⟩

theorem witness_FailedCheckChangesOnlyStatus :
    ∃ t, exec .xform (accepted .xform State.reset) = .next t ∧ (accepted .xform State.reset).errCode = .noError ∧
      t.errCode ≠ .noError := ⟨_, rfl, rfl, by decide⟩

theorem witness_CommandsEndWithTheirOwnErrors :
    ∃ t, exec .quantC (accepted .quantC State.reset) = .next t ∧ (accepted .quantC State.reset).errCode = .noError :=
  ⟨_, rfl, rfl⟩

theorem witness_EndOfCommandIsReported :
    StatusOk (accepted .qtbuild State.reset) ∧ (accepted .qtbuild State.reset).busy = true ∧
      (¬∃ rest, (accepted .qtbuild State.reset).moves = .reset :: rest) ∧
      ∃ t, step (accepted .qtbuild State.reset) = .next t ∧ t.busy = false :=
  ⟨by decide, rfl, (fun ⟨_, h⟩ => by cases h), _, rfl, rfl⟩

theorem witness_HostAccessNeverStopsACommand :
    (accepted .crop State.reset).busy = true ∧
      (∃ t, step (withMove (.host (.memWrite 5 1)) (accepted .crop State.reset)) = .next t) ∧
      (∃ t, step (withMove (.host (.memRead 5)) (accepted .crop State.reset)) = .next t) ∧
      ∀ addr v, HostAccess.memRead 5 ≠ .memWrite addr v :=
  ⟨rfl, ⟨_, rfl⟩, ⟨_, rfl⟩, fun _ _ h => by cases h⟩

/-- A command that stores nothing, and one that stores two buffers of which an address is outside. -/
theorem witness_CommandsWriteOnlyTheirOwnState :
    (∃ t, exec (.qscale 16) State.reset = .next t ∧ (Instr.qscale 16) ≠ .extend ∧
      (∀ n, (Instr.qscale 16) ≠ .genbasis n) ∧ storedBuffers (.qscale 16) State.reset = []) ∧
    let s : State := { State.reset with latched := { Args.zero with src0 := 0x1000, src1 := 0x1080 } }
    (∃ t, exec .zigzagBT s = .next t) ∧ (storedBuffers .zigzagBT s).length = 2 ∧
      ∀ b ∈ storedBuffers .zigzagBT s, ¬(b.base ≤ 0x10C0 ∧ 0x10C0 < b.base + b.len) :=
  ⟨⟨_, rfl, by decide, fun _ => by simp, rfl⟩, ⟨_, rfl⟩, rfl, by decide⟩

/-- A completed, enabled and an accepted state with the interrupt enabled. -/
theorem witness_InterruptRisesOnlyAtCompletion :
    (PassOk { accepted .qtbuild State.reset with doneIe := true } ∧
      irq { accepted .qtbuild State.reset with doneIe := true } = false ∧
      ∃ t, step { accepted .qtbuild State.reset with doneIe := true } = .next t ∧ irq t = true) ∧
    PassOk (withMove (csrw 0x010 1) { State.reset with done := true }) ∧
      irq (withMove (csrw 0x010 1) { State.reset with done := true }) = false ∧
      ∃ t, step (withMove (csrw 0x010 1) { State.reset with done := true }) = .next t ∧ irq t = true :=
  ⟨⟨(fun _ h => by cases h), rfl, _, rfl, rfl⟩, (fun _ h => by cases h), rfl, _, rfl, rfl⟩

theorem witness_ArgumentsChangeOnlyByTheHost :
    (∃ t, step (withMove (csrw 0x048 7) State.reset) = .next t ∧ t.csr ≠ State.reset.csr) ∧
      ∃ t, step (withMove (csrw 0x008 9) { State.reset with csr := encodeArgs }) = .next t ∧ t.latched = encodeArgs :=
  ⟨⟨_, rfl, by decide⟩, _, rfl, rfl⟩

theorem witness_OddCsrAccessIsIgnored : (2 ≠ 4 ∨ (0x00C#12).toNat % 4 ≠ 0) ∧ (4 ≠ 4 ∨ (0x00E#12).toNat % 4 ≠ 0) := by decide

theorem witness_ReservedAndReadOnlyOffsets :
    (∀ off ∈ [0x014#12, 0x074#12, 0x0FC#12, 0x400#12, 0xFFC#12], off.toNat % 4 = 0 ∧
      (off.toNat ∈ [0x014, 0x018, 0x01C, 0x04C, 0x050, 0x054, 0x058, 0x05C] ∨ (0x074 ≤ off.toNat ∧ off.toNat < 0x100) ∨
        0x400 ≤ off.toNat)) ∧
    ∀ off ∈ [0x004#12, 0x014#12, 0x01C#12, 0x04C#12, 0x3FC#12], off.toNat % 4 = 0 ∧
      (off.toNat < 0x008 ∨ (0x010 < off.toNat ∧ off.toNat < 0x020) ∨ 0x048 < off.toNat) := by decide

theorem witness_TableWindowsReadLittleEndian :
    ((withTables State.reset).qvalid = true ∧ rebuildsTables (withTables State.reset) = false ∧ 15 < 16) ∧
      ((withKernel 8 State.reset).kvalid = true ∧ rebuildsKernel (withKernel 8 State.reset) = false ∧ 7 < 8) ∧
      0x100 ≤ (0x100#12).toNat ∧ (0x3FC#12).toNat < 0x400 := by decide

theorem witness_GenbasisStoresTheKernel : 1 ≤ 1 ∧ 1 ≤ 8 ∧ 8 ≤ 8 := by decide

theorem witness_KernelRowZeroAndExactZeros : 1 ≤ 7 ∧ 7 ≤ 8 ∧ 3 < 7 ∧ (F64.fin false (2 ^ 53 - 1) 2045).valid := by
  refine ⟨by decide, by decide, by decide, ?_⟩
  unfold F64.valid; decide

theorem witness_KernelsAreCorrectlyRounded : (1 ≤ 1 ∧ 0 < 1) ∧ (8 ≤ 8 ∧ 7 < 8) ∧ (F64.fin true 1 0).valid := by
  refine ⟨by decide, by decide, ?_⟩
  unfold F64.valid; decide

theorem witness_AddAndMulRoundToNearestEven :
    F64.half.valid ∧ |F64.half.val + F64.half.val| ≤ 2 ^ 1023 ∧ |F64.half.val * F64.half.val| ≤ 2 ^ 1023 := by
  have h : F64.half.val = 1 / 2 := by
    simp only [F64.half, F64.val]
    norm_num
  refine ⟨?_, ?_, ?_⟩
  · unfold F64.half F64.valid; decide
  · rw [h, show |(1 / 2 + 1 / 2 : ℚ)| = 1 by norm_num]
    exact one_le_pow₀ (by norm_num)
  · rw [h, show |(1 / 2 * (1 / 2) : ℚ)| = 1 / 4 by norm_num]
    exact le_trans (by norm_num) (one_le_pow₀ (by norm_num : (1 : ℚ) ≤ 2))

theorem witness_RoundingOfTransformOutputs : (F64.fin true (2 ^ 52) 0).valid := by unfold F64.valid; decide

theorem witness_ConstantBlockHasOnlyItsDc : (-128 ≤ (-128 : Int) ∧ (127 : Int) ≤ 127) ∧ 7 < 8 := by decide

theorem witness_TransformOutputsFit : 1 ≤ 8 ∧ 8 ≤ 8 ∧ (∀ r c, -128 ≤ (fun _ _ => -128 : Nat → Nat → Int) r c ∧
    (fun _ _ => -128 : Nat → Nat → Int) r c ≤ 127) ∧ 7 < 8 := ⟨by decide, by decide, fun _ _ => ⟨Int.le_refl _, by simp⟩, by decide⟩

/-- A transform of order 8 whose output ends at the last byte of memory. -/
def xformState : State := { withKernel 8 State.reset with latched := { xformArgs with dst := 0xFF80 } }

theorem witness_XformWritesTheTransform :
    xformState.kvalid = true ∧ fits xformState (aSrc0 xformState) (kernelOrder xformState * kernelOrder xformState) ∧
      fits xformState (aDst xformState) (2 * (kernelOrder xformState * kernelOrder xformState)) ∧
      apart (aSrc0 xformState) (kernelOrder xformState * kernelOrder xformState) (aDst xformState)
        (2 * (kernelOrder xformState * kernelOrder xformState)) ∧
      raceFree xformState ⟨aSrc0 xformState, kernelOrder xformState * kernelOrder xformState⟩ ∧ kernelOrder xformState = 8 := by
  refine ⟨rfl, ?_, ?_, ?_, fun _ _ _ => List.not_mem_nil, rfl⟩ <;> first | unfold fits | unfold apart
  all_goals decide

/-- The transform of V19b whose output overlaps its source, and one whose output is one byte too high. -/
theorem witness_XformErrorsInOrder :
    State.reset.kvalid = false ∧
      (let s : State := { withKernel 8 State.reset with latched := { xformArgs with dst := 0xFF81 } }
       s.kvalid = true ∧ ¬(fits s (aSrc0 s) (kernelOrder s * kernelOrder s) ∧
          fits s (aDst s) (2 * (kernelOrder s * kernelOrder s)))) ∧
      let s : State := { withKernel 8 State.reset with latched := { xformArgs with dst := 0x1020 } }
      s.kvalid = true ∧ fits s (aSrc0 s) (kernelOrder s * kernelOrder s) ∧
        fits s (aDst s) (2 * (kernelOrder s * kernelOrder s)) ∧
        ¬apart (aSrc0 s) (kernelOrder s * kernelOrder s) (aDst s) (2 * (kernelOrder s * kernelOrder s)) := by
  unfold fits apart; decide

theorem witness_QscaleScalesTheBase : 255 ≤ 255 ∧ 0 ≤ 255 := by decide

theorem witness_QualityScalingFormula : 255 ≤ 255 ∧ (1 : Int) ≤ 1 ∧ (1 : Int) ≤ 100 ∧ (100 : Int) ≤ 100 := by decide

theorem witness_QroundIsFloorOfQuotientPlusHalf : 1 ≤ 1 ∧ 1 ≤ 255 ∧ 255 ≤ 255 := by decide

theorem witness_QuantizedCoefficientFits : 1 ≤ 1 ∧ 1 ≤ 255 ∧ 255 ≤ 255 := by decide

/-- A block that ends at the last byte of memory, with tables built. -/
def quantState : State := { withTables State.reset with latched := { Args.zero with src0 := 0xFF80 } }

theorem witness_QuantDividesTheBlockInPlace :
    quantState.qvalid = true ∧ fits quantState (aSrc0 quantState) 128 ∧
      raceFree quantState ⟨aSrc0 quantState + 2 * 63, 2⟩ := by
  refine ⟨rfl, ?_, fun _ _ _ => List.not_mem_nil⟩
  unfold fits; decide

theorem witness_QuantAndZigzagErrorsInOrder :
    State.reset.qvalid = false ∧
      (let s : State := { withTables State.reset with latched := { Args.zero with src0 := 0xFF81 } }
       s.qvalid = true ∧ ¬fits s (aSrc0 s) 128) ∧
      (let s : State := { State.reset with latched := { Args.zero with src1 := 0xFFC1 } }
       ¬(fits s (aSrc0 s) (if false then 128 else 0) ∧ fits s (aSrc1 s) (if true then 64 else 0))) ∧
      let s : State := { State.reset with latched := { Args.zero with src0 := 0x1000, src1 := 0x1070 } }
      fits s (aSrc0 s) (if true then 128 else 0) ∧ fits s (aSrc1 s) (if true then 64 else 0) ∧
        ¬apart (aSrc0 s) (if true then 128 else 0) (aSrc1 s) (if true then 64 else 0) := by
  unfold fits apart; decide

/-- All four forms, with the operands side by side. -/
theorem witness_ZigzagGathersInPlace : ∀ b t : Bool,
    let s : State := { State.reset with latched := { Args.zero with src0 := 0x1000, src1 := 0x1080 } }
    fits s (aSrc0 s) (if b then 128 else 0) ∧ fits s (aSrc1 s) (if t then 64 else 0) ∧
      apart (aSrc0 s) (if b then 128 else 0) (aSrc1 s) (if t then 64 else 0) ∧ s.raced = [] := by
  unfold fits apart; decide

theorem witness_PaddedSizeClosedForm : 1 ≤ 65535 ∧ 65535 < 2 * 65535 := by decide

/-- V33a, as accepted. -/
def extendState : State := { State.reset with latched := extendArgs }

theorem witness_ExtendReplicatesTheEdges :
    1 ≤ aWidth extendState ∧ aWidth extendState ≤ 65535 ∧ 1 ≤ aHeight extendState ∧ aHeight extendState ≤ 65535 ∧
      1 ≤ aBsize extendState ∧ aBsize extendState ≤ 65535 ∧
      4 = aWidth extendState + (aBsize extendState - aWidth extendState % aBsize extendState) ∧
      4 = aHeight extendState + (aBsize extendState - aHeight extendState % aBsize extendState) ∧
      4 * 4 ≤ aDstlen extendState ∧ fits extendState (aSrc0 extendState) (aWidth extendState * aHeight extendState) ∧
      fits extendState (aDst extendState) (4 * 4) ∧
      apart (aSrc0 extendState) (aWidth extendState * aHeight extendState) (aDst extendState) (4 * 4) ∧
      aDst extendState + 3 * 4 + 3 ∉ extendState.raced := by
  unfold fits apart; decide

/-- V33d, as accepted. -/
def cropState : State :=
  { State.reset with latched :=
    { Args.zero with src0 := 0x2000, width := 4, height := 4, neww := 3, newh := 2, dst := 0x3000 } }

theorem witness_CropCopiesTheCorner :
    1 ≤ aWidth cropState ∧ aWidth cropState ≤ 65535 ∧ 1 ≤ aHeight cropState ∧ aHeight cropState ≤ 65535 ∧
      aNeww cropState ≤ aWidth cropState ∧ aNewh cropState ≤ aHeight cropState ∧
      fits cropState (aSrc0 cropState) (aWidth cropState * aHeight cropState) ∧
      fits cropState (aDst cropState) (aNeww cropState * aNewh cropState) ∧
      apart (aSrc0 cropState) (aWidth cropState * aHeight cropState) (aDst cropState)
        (aNeww cropState * aNewh cropState) ∧ 2 < aNeww cropState ∧ 1 < aNewh cropState ∧ cropState.raced = [] := by
  unfold fits apart; decide

/-- BSIZE = 0, a capacity of 15, an overlap, and the like for CROP. -/
theorem witness_BorderErrorsInOrder :
    aBsize State.reset = 0 ∧
      (let s : State := { State.reset with latched := { extendArgs with dstlen := 15 } }
       1 ≤ aBsize s ∧ aBsize s ≤ 65535 ∧ 1 ≤ aWidth s ∧ 1 ≤ aHeight s ∧
          aDstlen s < extendWidth s * extendHeight s) ∧
      (let s : State := { State.reset with latched := { extendArgs with dst := 0x1003 } }
       1 ≤ aWidth s ∧ extendWidth s * extendHeight s ≤ aDstlen s ∧ fits s (aSrc0 s) (aWidth s * aHeight s) ∧
          fits s (aDst s) (extendWidth s * extendHeight s) ∧
          ¬apart (aSrc0 s) (aWidth s * aHeight s) (aDst s) (extendWidth s * extendHeight s)) ∧
      (let s : State := { cropState with latched := { cropState.latched with neww := 5 } }
       ¬aNeww s ≤ aWidth s) ∧
      (let s : State := { cropState with latched := { cropState.latched with dst := 0xFFFB } }
       aNeww s ≤ aWidth s ∧ aNewh s ≤ aHeight s ∧ ¬fits s (aDst s) (aNeww s * aNewh s)) ∧
      let s : State := { cropState with latched := { cropState.latched with dst := 0x200F } }
      aNeww s ≤ aWidth s ∧ fits s (aSrc0 s) (aWidth s * aHeight s) ∧ fits s (aDst s) (aNeww s * aNewh s) ∧
        ¬apart (aSrc0 s) (aWidth s * aHeight s) (aDst s) (aNeww s * aNewh s) := by
  unfold fits apart; decide

theorem witness_ExtendThenCropRoundTrip :
    ∃ t u, exec .extend extendState = .next t ∧ t.errCode = .noError ∧ extendState.errCode = .noError ∧
      extendState.raced = [] ∧
      exec .crop { t with latched := { t.latched with
        src0 := extendState.latched.dst, width := t.result0, height := t.result1, neww := extendState.latched.width,
        newh := extendState.latched.height, dst := 0x3000 } } = .next u ∧ u.errCode = .noError ∧
      5 < aWidth extendState * aHeight extendState :=
  ⟨_, _, rfl, by decide +kernel, rfl, rfl, rfl, by decide +kernel, by decide⟩

/-- An accepted ENCODE of the largest width and the least height, in a memory that holds it. -/
def wideState : State :=
  { accepted .encode State.reset with
    params := { Params.default with memSize := 0x40000 }, latched := { encodeArgs with width := 65535, height := 2, src1 := 0x20000, src2 := 0x30000 } }

theorem witness_ChromaIsCoRegistered : 2 ≤ aWidth wideState ∧ aWidth wideState ≤ 65535 ∧ 2 ≤ aHeight wideState ∧
    aHeight wideState ≤ 65535 ∧ 4095 < passWp wideState / 16 ∧ 0 < passHp wideState / 16 := by decide +kernel

theorem witness_EncodeBeginsAPass :
    2 ≤ aWidth wideState ∧ aWidth wideState ≤ 65535 ∧ 2 ≤ aHeight wideState ∧ aHeight wideState ≤ 65535 ∧
      fits wideState (aSrc0 wideState) (aWidth wideState * aHeight wideState) ∧
      fits wideState (aSrc1 wideState) (aWidth wideState / 2 * (aHeight wideState / 2)) ∧
      fits wideState (aSrc2 wideState) (aWidth wideState / 2 * (aHeight wideState / 2)) := by
  unfold fits; decide +kernel

theorem witness_EncodeErrorsInOrder :
    ¬2 ≤ aWidth State.reset ∧
      let s : State := { State.reset with latched := { encodeArgs with src0 := 0xFF01 } }
      2 ≤ aWidth s ∧ aWidth s ≤ 65535 ∧ 2 ≤ aHeight s ∧ aHeight s ≤ 65535 ∧ ¬fits s (aSrc0 s) (aWidth s * aHeight s) := by
  unfold fits; decide

theorem witness_EncodePassEmitsTheSpecStream :
    wideState.busy = true ∧ wideState.seq = none ∧ decode (commandWord wideState) = .ok .encode ∧ wideState.raced = [] ∧
      2 ≤ aWidth wideState ∧ aWidth wideState ≤ 65535 ∧ 2 ≤ aHeight wideState ∧ aHeight wideState ≤ 65535 ∧
      fits wideState (aSrc0 wideState) (aWidth wideState * aHeight wideState) ∧
      fits wideState (aSrc1 wideState) (aWidth wideState / 2 * (aHeight wideState / 2)) ∧
      fits wideState (aSrc2 wideState) (aWidth wideState / 2 * (aHeight wideState / 2)) := by
  unfold fits; decide +kernel

/-- The order-8 kernel, the quality-50 tables and the addresses of P2, with one sample of 1. -/
def chainState : State :=
  { withKernel 8 (withTables State.reset) with latched := xformArgs, mem := [(0x1000, 1)] }

theorem witness_StandaloneChainComputesCode :
    chainState.errCode = .noError ∧ chainState.raced = [] ∧ chainState.korder = 8 ∧
      ∃ t u w, exec .xform chainState = .next t ∧ t.errCode = .noError ∧
        exec .quantY { t with latched := { t.latched with src0 := chainState.latched.dst } } = .next u ∧
        u.errCode = .noError ∧ exec .zigzagB u = .next w ∧ w.errCode = .noError :=
  ⟨rfl, rfl, rfl, _, _, _, rfl, by decide +kernel, rfl, by decide +kernel, rfl, by decide +kernel⟩

/-- The transform of that block is within i16 at every position. -/
theorem witness_StandaloneChain_bound : ∀ i < 8, ∀ j < 8,
    -32768 ≤ dctEval 8 chainState.kernel (fun r c => (Memory.read chainState.mem (aSrc0 chainState + r * 8 + c)).toInt) i j ∧
      dctEval 8 chainState.kernel (fun r c => (Memory.read chainState.mem (aSrc0 chainState + r * 8 + c)).toInt) i j ≤ 32767 := by
  decide +kernel

/-- The ENCODE of `wideState`, ready to run. -/
theorem witness_EncodeEventCount :
    EncodeReady wideState ∧ 4096 = passWp wideState / 16 * (passHp wideState / 16) := by
  refine ⟨⟨rfl, rfl, by decide, rfl, by decide, by decide, ?_, ?_, ?_⟩, by decide +kernel⟩ <;> unfold fits <;> decide

/-- Two images with the same bytes at different addresses, and qualities that clamp alike. -/
theorem witness_EncodeStreamDependsOnTheImageOnly :
    let s : State := { accepted .encode State.reset with
      latched := { encodeArgs with width := 2, height := 2, quality := 100 }, mem := [(0x1003, 7), (0x2000, 5)] }
    let t : State := { accepted .encode State.reset with
      latched := { encodeArgs with width := 2, height := 2, quality := 200, src0 := 0x5000, src1 := 0x6000 }
      mem := [(0x5003, 7), (0x6000, 5)], kvalid := true }
    EncodeReady s ∧ EncodeReady t ∧ aWidth s = aWidth t ∧ aHeight s = aHeight t ∧
      clampQuality (aQuality s) = clampQuality (aQuality t) ∧ s.params.baseLuma = t.params.baseLuma ∧
      s.params.baseChroma = t.params.baseChroma ∧
      (∀ k < aWidth s * aHeight s, Memory.read s.mem (aSrc0 s + k) = Memory.read t.mem (aSrc0 t + k)) ∧
      ∀ k < aWidth s / 2 * (aHeight s / 2), Memory.read s.mem (aSrc1 s + k) = Memory.read t.mem (aSrc1 t + k) ∧
        Memory.read s.mem (aSrc2 s + k) = Memory.read t.mem (aSrc2 t + k) := by
  refine ⟨⟨rfl, rfl, by decide, rfl, by decide, by decide, ?_, ?_, ?_⟩,
    ⟨rfl, rfl, by decide, rfl, by decide, by decide, ?_, ?_, ?_⟩, rfl, rfl, by decide, rfl, rfl, by decide, by decide⟩ <;>
    unfold fits <;> decide

theorem witness_WriterFailEndsThePass :
    ∃ s q ev, step (accepted .encode (machine encodeArgs [])) = .next s ∧ s.busy = true ∧ s.seq = some q ∧
      q.pending = some ev ∧ ∃ t, errorEnd .writerFail s = .next t := ⟨_, _, _, rfl, rfl, rfl, rfl, _, rfl⟩

/-- The pass of `passAt` with an event offered at index `e` of its macroblock, the `e` before it accepted. -/
def waitingAt (e : Nat) (ev : WriterEvent) : State :=
  { passAt e with blkCount := BitVec.ofNat 32 e, seq := (passAt e).seq.map fun q => { q with pending := some ev } }

/-- No coefficient set. -/
def noCoeffs : Vector Coeff 64 := Vector.ofFn fun _ => 0

/-- BLOCK_Y at e = 0 and BLOCK_V at e = 5 accepted, a step that counts nothing, an ENCODE that begins, and reset. -/
theorem witness_CountersCountAcceptedBlocks :
    (PassOk (waitingAt 0 (.blockY noCoeffs)) ∧
      ∃ t, step (withMove (.sink .accept) (waitingAt 0 (.blockY noCoeffs))) = .next t ∧ t.blkCount = 1 ∧ t.mbCount = 0) ∧
    (PassOk (waitingAt 5 (.blockV noCoeffs)) ∧
      ∃ t, step (withMove (.sink .accept) (waitingAt 5 (.blockV noCoeffs))) = .next t ∧ t.blkCount = 6 ∧ t.mbCount = 1) ∧
    (∃ t, step (waitingAt 5 (.blockV noCoeffs)) = .next t ∧ t.blkCount = 5) ∧
    (let s : State := { accept 0x9 (machine encodeArgs []) with blkCount := 11, mbCount := 1 }
     PassOk s ∧ ∃ t, step s = .next t ∧ t.blkCount = 0 ∧ t.mbCount = 0) ∧
    ∃ t, step (withMove .reset (waitingAt 5 (.blockV noCoeffs))) = .next t ∧ t.blkCount = 0 := by
  refine ⟨⟨?_, _, rfl, rfl, rfl⟩, ⟨?_, _, rfl, rfl, rfl⟩, ⟨_, rfl, rfl⟩, ⟨(fun _ h => by cases h), _, rfl, rfl, rfl⟩, _, rfl, rfl⟩
  all_goals
    intro q hq
    cases hq
    refine ⟨rfl, by decide, by decide, rfl, ⟨rfl, rfl, rfl, rfl⟩, rfl, rfl, ⟨?_, ?_, ?_, ?_, ?_, ?_⟩, ?_, ?_, ?_, ?_, ?_, ?_⟩
    all_goals first | decide | (intro ev h; cases h; rfl)

theorem witness_HostDataAccess : 0xFFFF < State.reset.params.memSize ∧ State.reset.params.memSize ≤ 0x10000 := by decide

theorem witness_ResetAbortsTheCommand :
    State.reset.busy = false ∧ (passAt 1).seq ≠ none ∧
      decode (commandWord (accepted .encode State.reset)) = .ok .encode := by decide +kernel

theorem witness_ResetMeetsTheInvariant : Params.default.wf ∧ { Params.default with memSize := 2 ^ 32 }.wf := by decide

theorem witness_EveryStepKeepsTheInvariant :
    State.Inv (withMove (csrw 0x008 9) State.reset) ∧ ∃ t, step (withMove (csrw 0x008 9) State.reset) = .next t := by
  refine ⟨⟨by decide, by decide, by decide, ?_, by decide, ?_⟩, _, rfl⟩
  · intro h; cases h
  · intro q h; cases h

end Sys2Proof.Tests
end

/-! Rounding to nearest, ties to even (spec/00_scope.md R10): what `F64.round` returns is the nearest datum, and
`F64.add` and `F64.mul` round the exact result. -/

namespace Sys2Proof.Machine.F64

/-- The sign of a datum as a factor. -/
def sgn (neg : Bool) : ℚ := if neg then -1 else 1

/-- The unit in the last place of a datum with exponent field `E`. -/
def ulp (E : ℕ) : ℚ := 2 ^ ((E : ℤ) - 1074)

/-- ± m · 2^(e − bias), the rational that `round neg m e bias` rounds. -/
def signedVal (neg : Bool) (m e bias : ℕ) : ℚ := sgn neg * m * 2 ^ ((e : ℤ) - bias)

/-- `q` is the integer nearest to `a`, the even one at a tie. -/
def RoundsTo (a : ℚ) (q : ℕ) : Prop := |q - a| ≤ 1 / 2 ∧ (|q - a| = 1 / 2 → q % 2 = 0)

/-- The datum ± q · ulp E with `q ≤ 2^53`: a significand of 2^53 carries into the exponent. -/
def carried (neg : Bool) (q E : ℕ) : F64 := if q = 2 ^ 53 then .fin neg (2 ^ 52) (E + 1) else .fin neg q E

/-- The position of the unit in the last place that `round` chooses. -/
def ulpPos (m e bias : ℕ) : ℕ := max (e + (Nat.log2 m + 1) - 53) (bias - 1074)

/-- The significand that `round` takes at position `pos`, before the carry. -/
def significandAt (m e pos : ℕ) : ℕ := if pos ≤ e then m * 2 ^ (e - pos) else roundShift m (pos - e)

/-! ### Values -/

@[simp] theorem sgn_mul_self (neg : Bool) : sgn neg * sgn neg = 1 := by cases neg <;> norm_num [sgn]

@[simp] theorem abs_sgn (neg : Bool) : |sgn neg| = 1 := by cases neg <;> norm_num [sgn]

theorem sgn_bne (n n' : Bool) : sgn (n != n') = sgn n * sgn n' := by cases n <;> cases n' <;> norm_num [sgn]

theorem sgn_eq_neg_of_ne {n n' : Bool} (h : n ≠ n') : sgn n = -sgn n' := by
  cases n <;> cases n' <;> simp_all [sgn]

@[simp] theorem sgn_mul_sgn_mul (neg : Bool) (r : ℚ) : sgn neg * (sgn neg * r) = r := by
  rw [← mul_assoc, sgn_mul_self, one_mul]

theorem abs_sub_sgn_mul (neg : Bool) (t r : ℚ) : |t - sgn neg * r| = |sgn neg * t - r| := by
  calc |t - sgn neg * r| = |sgn neg * (sgn neg * t - r)| := by rw [mul_sub, sgn_mul_sgn_mul]
    _ = |sgn neg * t - r| := by rw [abs_mul, abs_sgn, one_mul]

theorem exists_int_sgn_mul (neg : Bool) (j : ℤ) : ∃ i : ℤ, (i : ℚ) = sgn neg * j := by
  cases neg
  · exact ⟨j, by simp [sgn]⟩
  · exact ⟨-j, by simp [sgn]⟩

theorem ulp_pos (E : ℕ) : 0 < ulp E := zpow_pos two_pos _

theorem ulp_mono {e E : ℕ} (h : e ≤ E) : ulp e ≤ ulp E := zpow_le_zpow_right₀ one_le_two (by omega)

theorem ulp_add (E k : ℕ) : ulp (E + k) = 2 ^ k * ulp E := by
  rw [ulp, ulp, ← zpow_natCast, ← zpow_add₀ two_ne_zero]; push_cast; ring_nf

theorem ulp_succ (E : ℕ) : ulp (E + 1) = 2 * ulp E := by rw [ulp_add, pow_one]

theorem val_fin (neg : Bool) (m e : ℕ) : (fin neg m e).val = sgn neg * m * ulp e := rfl

theorem signedVal_eq_val (neg : Bool) (m e : ℕ) : signedVal neg m e 1074 = (fin neg m e).val := rfl

theorem signedVal_mul (n n' : Bool) (m m' e e' b b' : ℕ) :
    signedVal n m e b * signedVal n' m' e' b' = signedVal (n != n') (m * m') (e + e') (b + b') := by
  have hpow : (2 : ℚ) ^ (((e + e' : ℕ) : ℤ) - ((b + b' : ℕ) : ℤ)) = 2 ^ ((e : ℤ) - b) * 2 ^ ((e' : ℤ) - b') := by
    rw [← zpow_add₀ two_ne_zero]; push_cast; ring_nf
  rw [signedVal, signedVal, signedVal, hpow, sgn_bne]
  push_cast; ring

theorem abs_signedVal (neg : Bool) (m e b : ℕ) : |signedVal neg m e b| = m * 2 ^ ((e : ℤ) - b) := by
  rw [signedVal, mul_assoc, abs_mul, abs_sgn, one_mul, abs_of_nonneg (by positivity)]

/-- Lowering the exponent of a finite datum to `b` multiplies its significand. -/
theorem val_fin_aligned (n : Bool) (m : ℕ) {b e : ℕ} (hb : b ≤ e) :
    (fin n m e).val = sgn n * ((m * 2 ^ (e - b) : ℕ) : ℚ) * ulp b := by
  obtain ⟨k, rfl⟩ := Nat.exists_eq_add_of_le hb
  rw [val_fin, ulp_add, Nat.add_sub_cancel_left]
  push_cast; ring

/-! ### Rounding to an integer -/

theorem roundsTo_self (q : ℕ) : RoundsTo q q := by
  constructor <;> simp

theorem roundsTo_of_abs_lt {a : ℚ} {q : ℕ} (h : |q - a| < 1 / 2) : RoundsTo a q :=
  ⟨h.le, fun heq => absurd heq h.ne⟩

/-- `roundShift` compares the remainder of the division by 2^k with half of 2^k. -/
theorem roundShift_roundsTo (m k : ℕ) : RoundsTo (m / 2 ^ k) (roundShift m k) := by
  have hk : (0 : ℚ) < 2 ^ k := by positivity
  have hm : (m : ℚ) / 2 ^ k = (m / 2 ^ k : ℕ) + (m % 2 ^ k : ℕ) / 2 ^ k := by
    have := Nat.div_add_mod m (2 ^ k)
    field_simp
    exact_mod_cast this.symm
  have hr : m % 2 ^ k < 2 ^ k := Nat.mod_lt _ (by positivity)
  rw [hm]
  unfold roundShift
  generalize m / 2 ^ k = q
  generalize m % 2 ^ k = r at *
  have hf0 : (0 : ℚ) ≤ r / 2 ^ k := by positivity
  dsimp only
  split_ifs with hlt hgt
  · have hf : (r : ℚ) / 2 ^ k < 1 / 2 := by
      rw [div_lt_div_iff₀ hk two_pos]; exact_mod_cast (by omega : r * 2 < 1 * 2 ^ k)
    exact roundsTo_of_abs_lt (by rw [abs_lt]; constructor <;> linarith)
  · have hf : 1 / 2 < (r : ℚ) / 2 ^ k := by
      rw [div_lt_div_iff₀ two_pos hk]; exact_mod_cast (by omega : 1 * 2 ^ k < r * 2)
    have hf1 : (r : ℚ) / 2 ^ k < 1 := by rw [div_lt_one hk]; exact_mod_cast hr
    exact roundsTo_of_abs_lt (by rw [abs_lt]; push_cast; constructor <;> linarith)
  · have hf : (r : ℚ) / 2 ^ k = 1 / 2 := by
      rw [div_eq_div_iff hk.ne' two_ne_zero]; exact_mod_cast (by omega : r * 2 = 1 * 2 ^ k)
    rw [hf]
    refine ⟨?_, fun _ => by omega⟩
    rcases Nat.mod_two_eq_zero_or_one q with h | h <;> rw [h, abs_le] <;> push_cast <;> constructor <;> linarith

/-- No integer is nearer to `a` than what `a` rounds to, and another one as near leaves it even. -/
theorem RoundsTo.le_int {a : ℚ} {q : ℕ} (h : RoundsTo a q) (j : ℤ) :
    |q - a| ≤ |j - a| ∧ (|q - a| = |j - a| → j = q ∨ q % 2 = 0) := by
  obtain ⟨hhalf, htie⟩ := h
  by_cases hj : j = q
  · subst hj; simp
  · have hgap : (1 : ℚ) ≤ |(j : ℚ) - q| := by exact_mod_cast Int.one_le_abs (sub_ne_zero.mpr hj)
    have htri : |(j : ℚ) - q| ≤ |j - a| + |q - a| := by
      rw [abs_sub_comm (q : ℚ) a]; exact abs_sub_le _ _ _
    exact ⟨by linarith, fun heq => .inr (htie (by linarith))⟩

theorem RoundsTo.le_of_lt {a : ℚ} {q n : ℕ} (h : RoundsTo a q) (ha : a < n) : q ≤ n := by
  have hq := (abs_le.mp h.1).2
  have : (q : ℚ) < (n + 1 : ℕ) := by push_cast; linarith
  exact Nat.lt_succ_iff.mp (by exact_mod_cast this)

theorem RoundsTo.le_of_le {a : ℚ} {q n : ℕ} (h : RoundsTo a q) (ha : n ≤ a) : n ≤ q := by
  have hq := (abs_le.mp h.1).1
  have : (n : ℚ) < (q + 1 : ℕ) := by push_cast; linarith
  exact Nat.lt_succ_iff.mp (by exact_mod_cast this)

theorem RoundsTo.abs_sub_le_of_le {a : ℚ} {q n : ℕ} (h : RoundsTo a q) (ha : n ≤ a) : |q - a| ≤ a - n := by
  have hn := (h.le_int n).1
  rwa [abs_sub_comm ((n : ℤ) : ℚ), Int.cast_natCast, abs_of_nonneg (sub_nonneg.mpr ha)] at hn

/-! ### The nearest datum -/

/-- Against the unit `ulp E`, a finite datum is a multiple of it or lies below every normal significand. -/
theorem valid_multiple_or_small {z : F64} (hz : z.valid) (E : ℕ) :
    (∃ j : ℤ, z.val = j * ulp E) ∨ (E ≠ 0 ∧ |z.val| < (2 ^ 52 : ℕ) * ulp E) := by
  obtain _ | _ | ⟨n, m, e⟩ := z
  · exact hz.elim
  · exact hz.elim
  obtain ⟨hm, -, -⟩ := hz
  by_cases hE : E ≤ e
  · obtain ⟨j, hj⟩ := exists_int_sgn_mul n (m * 2 ^ (e - E) : ℕ)
    exact .inl ⟨j, by rw [val_fin_aligned n m hE, hj, Int.cast_natCast]⟩
  · refine .inr ⟨by omega, ?_⟩
    have hulp : 2 * ulp e ≤ ulp E := by rw [← ulp_succ]; exact ulp_mono (by omega)
    have hm' : (m : ℚ) < 2 ^ 53 := by exact_mod_cast hm
    calc |(fin n m e).val| = m * ulp e := abs_signedVal n m e 1074
      _ < 2 ^ 53 * ulp e := mul_lt_mul_of_pos_right hm' (ulp_pos e)
      _ = (2 ^ 52 : ℕ) * (2 * ulp e) := by push_cast; ring
      _ ≤ (2 ^ 52 : ℕ) * ulp E := by gcongr

/-- A datum whose significand is `a` rounded is the nearest to ± a · ulp E: among the multiples of the unit by
`RoundsTo.le_int`, and the other data all lie below the normal significand 2^52. -/
theorem nearest_of_roundsTo {x : F64} {neg : Bool} {a : ℚ} {q E : ℕ} (hx : x.valid)
    (hval : x.val = sgn neg * (q * ulp E)) (heven : q % 2 = 0 → x.evenSignificand)
    (hq : RoundsTo a q) (ha : E ≠ 0 → (2 ^ 52 : ℕ) ≤ a) : x.nearest (sgn neg * (a * ulp E)) := by
  have hu := ulp_pos E
  have hscale (t : ℚ) : |t * ulp E - a * ulp E| = |t - a| * ulp E := by
    rw [← sub_mul, abs_mul, abs_of_pos hu]
  refine ⟨hx, fun z hz => ?_⟩
  rw [abs_sub_sgn_mul, abs_sub_sgn_mul, hval, sgn_mul_sgn_mul, hscale]
  obtain ⟨j, hj⟩ | ⟨hE, hsmall⟩ := valid_multiple_or_small hz E
  · obtain ⟨i, hi⟩ := exists_int_sgn_mul neg j
    obtain ⟨hle, htie⟩ := hq.le_int i
    rw [hj, ← mul_assoc, ← hi, hscale]
    refine ⟨by gcongr, fun heq => (htie (mul_right_cancel₀ hu.ne' heq)).imp (fun hiq => ?_) heven⟩
    have hjq : sgn neg * j = q := by rw [← hi, hiq, Int.cast_natCast]
    rw [← hjq, mul_assoc, sgn_mul_sgn_mul]
  · have hσz : sgn neg * z.val ≤ |z.val| := by
      simpa [abs_mul] using le_abs_self (sgn neg * z.val)
    have hlt : |q - a| * ulp E < |sgn neg * z.val - a * ulp E| := by
      calc |q - a| * ulp E ≤ (a - (2 ^ 52 : ℕ)) * ulp E := by gcongr; exact hq.abs_sub_le_of_le (ha hE)
        _ = a * ulp E - (2 ^ 52 : ℕ) * ulp E := sub_mul _ _ _
        _ < a * ulp E - sgn neg * z.val := sub_lt_sub_left (hσz.trans_lt hsmall) _
        _ ≤ |a * ulp E - sgn neg * z.val| := le_abs_self _
        _ = |sgn neg * z.val - a * ulp E| := abs_sub_comm _ _
    exact ⟨hlt.le, fun heq => absurd heq hlt.ne⟩

/-- A finite datum is the nearest to its own value. -/
theorem nearest_val {x : F64} (hx : x.valid) : x.nearest x.val := by
  refine ⟨hx, fun z _ => ?_⟩
  rw [sub_self, abs_zero]
  exact ⟨abs_nonneg _, fun h => .inl (sub_eq_zero.mp (abs_eq_zero.mp h.symm))⟩

/-! ### The datum with a carried significand -/

theorem carried_val (neg : Bool) (q E : ℕ) : (carried neg q E).val = sgn neg * (q * ulp E) := by
  unfold carried
  split_ifs with h
  · subst h; rw [val_fin, ulp_succ]; push_cast; ring
  · rw [val_fin, mul_assoc]

theorem carried_evenSignificand (neg : Bool) {q : ℕ} (E : ℕ) (h : q % 2 = 0) : (carried neg q E).evenSignificand := by
  unfold carried
  split_ifs
  · exact (by decide : 2 ^ 52 % 2 = 0)
  · exact h

theorem carried_valid (neg : Bool) {q E : ℕ} (hq : q ≤ 2 ^ 53) (hnorm : E ≠ 0 → 2 ^ 52 ≤ q)
    (hE : E ≤ 2045) (hcarry : q = 2 ^ 53 → E < 2045) : (carried neg q E).valid := by
  unfold carried
  split_ifs with h
  · exact ⟨by decide, .inl le_rfl, hcarry h⟩
  · exact ⟨by omega, by omega, hE⟩

/-! ### `round` -/

/-- `round` is the carried significand when that has an exponent in the format. -/
theorem round_eq_carried (neg : Bool) {m e bias E : ℕ} (hpos : ulpPos m e bias = E + (bias - 1074))
    (hE : E ≤ 2045) (hcarry : significandAt m e (ulpPos m e bias) = 2 ^ 53 → E < 2045) :
    round neg m e bias = carried neg (significandAt m e (ulpPos m e bias)) E := by
  unfold round carried
  dsimp only
  rw [← ulpPos, ← significandAt]
  generalize significandAt m e (ulpPos m e bias) = q at *
  split_ifs with h hover hover
  · have := hcarry h; omega
  · rw [hpos, Nat.add_right_comm, Nat.add_sub_cancel]
  · omega
  · rw [hpos, Nat.add_sub_cancel]

theorem significandAt_roundsTo (m e pos : ℕ) :
    RoundsTo (m * 2 ^ ((e : ℤ) - pos)) (significandAt m e pos) := by
  unfold significandAt
  split_ifs with h
  · obtain ⟨k, rfl⟩ := Nat.exists_eq_add_of_le h
    convert roundsTo_self (m * 2 ^ k) using 1
    · push_cast; rw [← zpow_natCast]; congr 2; ring
    · rw [Nat.add_sub_cancel_left]
  · obtain ⟨k, rfl⟩ := Nat.exists_eq_add_of_le (not_le.mp h).le
    convert roundShift_roundsTo m k using 1
    · rw [div_eq_mul_inv, ← zpow_natCast, ← zpow_neg]; push_cast; congr 2; ring
    · rw [Nat.add_sub_cancel_left]

/-- The exact significand at the chosen position is below 2^53, for `ulpPos` leaves at most 53 bits. -/
theorem exactSignificand_lt (m e bias : ℕ) : (m : ℚ) * 2 ^ ((e : ℤ) - ulpPos m e bias) < (2 ^ 53 : ℕ) := by
  have hm : (m : ℚ) < 2 ^ ((Nat.log2 m : ℤ) + 1) := by exact_mod_cast Nat.lt_log2_self (n := m)
  calc (m : ℚ) * 2 ^ ((e : ℤ) - ulpPos m e bias)
      < 2 ^ ((Nat.log2 m : ℤ) + 1) * 2 ^ ((e : ℤ) - ulpPos m e bias) := mul_lt_mul_of_pos_right hm (by positivity)
    _ = 2 ^ ((Nat.log2 m : ℤ) + 1 + (e - ulpPos m e bias)) := (zpow_add₀ two_ne_zero _ _).symm
    _ ≤ 2 ^ (53 : ℤ) := zpow_le_zpow_right₀ one_le_two (by unfold ulpPos; omega)
    _ = (2 ^ 53 : ℕ) := by norm_num

/-- Above the lowest position the exact significand is normal, for `ulpPos` leaves exactly 53 bits. -/
theorem le_exactSignificand {m e bias : ℕ} (hm : m ≠ 0) (hpos : ulpPos m e bias ≠ bias - 1074) :
    (2 ^ 52 : ℕ) ≤ (m : ℚ) * 2 ^ ((e : ℤ) - ulpPos m e bias) := by
  have hm : (2 : ℚ) ^ (Nat.log2 m : ℤ) ≤ m := by exact_mod_cast Nat.log2_self_le hm
  calc ((2 ^ 52 : ℕ) : ℚ) = 2 ^ (52 : ℤ) := by norm_num
    _ ≤ 2 ^ ((Nat.log2 m : ℤ) + (e - ulpPos m e bias)) :=
      zpow_le_zpow_right₀ one_le_two (by unfold ulpPos at *; omega)
    _ = 2 ^ (Nat.log2 m : ℤ) * 2 ^ ((e : ℤ) - ulpPos m e bias) := zpow_add₀ two_ne_zero _ _
    _ ≤ m * 2 ^ ((e : ℤ) - ulpPos m e bias) := by gcongr

/-- 2^1023 is the least normal datum with the greatest exponent field. -/
theorem two_pow_1023 : (2 : ℚ) ^ 1023 = (2 ^ 52 : ℕ) * ulp 2045 := by
  rw [ulp, show ((2045 : ℕ) : ℤ) - 1074 = (971 : ℕ) by norm_num, zpow_natCast, Nat.cast_pow, Nat.cast_ofNat, ← pow_add]

theorem exponent_lt_of_lt {a : ℚ} {E : ℕ} (ha : (2 ^ 52 : ℕ) < a) (hle : a * ulp E ≤ (2 ^ 52 : ℕ) * ulp 2045) :
    E < 2045 := by
  by_contra! hE
  have ha0 : 0 ≤ a := ha.le.trans' (by positivity)
  have hlt : (2 ^ 52 : ℕ) * ulp 2045 < a * ulp E := mul_lt_mul ha (ulp_mono hE) (ulp_pos _) ha0
  exact absurd hle (not_le.mpr hlt)

theorem exponent_le_of_le {a : ℚ} {E : ℕ} (ha : (2 ^ 52 : ℕ) ≤ a) (hle : a * ulp E ≤ (2 ^ 52 : ℕ) * ulp 2045) :
    E ≤ 2045 := by
  cases E with
  | zero => exact Nat.zero_le _
  | succ k =>
    rw [ulp_succ, ← mul_assoc] at hle
    exact exponent_lt_of_lt (by push_cast at ha ⊢; linarith only [ha]) hle

/-- `round` gives the datum nearest to ± m · 2^(e − bias), ties to even, when that is at most 2^1023. -/
theorem round_nearest (neg : Bool) {m e bias : ℕ} (hm : m ≠ 0) (hb : 1074 ≤ bias)
    (hle : |signedVal neg m e bias| ≤ 2 ^ 1023) : (round neg m e bias).nearest (signedVal neg m e bias) := by
  obtain ⟨E, hpos⟩ : ∃ E, ulpPos m e bias = E + (bias - 1074) := Nat.exists_eq_add_of_le' (le_max_right _ _)
  have hq := significandAt_roundsTo m e (ulpPos m e bias)
  have hhigh := exactSignificand_lt m e bias
  have hnorm (hE : E ≠ 0) := le_exactSignificand (e := e) (bias := bias) hm (by omega)
  rw [two_pow_1023] at hle
  have hexact : (m : ℚ) * 2 ^ ((e : ℤ) - bias) = m * 2 ^ ((e : ℤ) - ulpPos m e bias) * ulp E := by
    rw [ulp, mul_assoc, ← zpow_add₀ two_ne_zero, show (e : ℤ) - ulpPos m e bias + (E - 1074) = e - bias by omega]
  rw [abs_signedVal, hexact] at hle
  rw [signedVal, mul_assoc, hexact]
  generalize (m : ℚ) * 2 ^ ((e : ℤ) - ulpPos m e bias) = a at *
  have hE : E ≤ 2045 := by
    by_cases h0 : E = 0
    · exact h0.trans_le (Nat.zero_le _)
    · exact exponent_le_of_le (hnorm h0) hle
  have hcarry (h : significandAt m e (ulpPos m e bias) = 2 ^ 53) : E < 2045 := by
    have hhalf := (abs_le.mp hq.1).2
    rw [h] at hhalf
    exact exponent_lt_of_lt (by push_cast at hhalf ⊢; linarith only [hhalf]) hle
  rw [round_eq_carried neg hpos hE hcarry]
  exact nearest_of_roundsTo
    (carried_valid neg (hq.le_of_lt hhigh) (fun h => hq.le_of_le (hnorm h)) hE hcarry)
    (carried_val neg _ E) (carried_evenSignificand neg E) hq hnorm

theorem round_nearest_of_eq {neg : Bool} {k e : ℕ} {r : ℚ} (hle : |r| ≤ 2 ^ 1023) (hk : k ≠ 0)
    (hr : r = (fin neg k e).val) : (round neg k e 1074).nearest r := by
  rw [hr, ← signedVal_eq_val] at hle ⊢
  exact round_nearest neg hk le_rfl hle

/-! ### `mul` and `add` -/

theorem valid_zero (neg : Bool) : (fin neg 0 0).valid := ⟨by decide, .inr rfl, by decide⟩

@[simp] theorem val_zero (neg : Bool) (e : ℕ) : (fin neg 0 e).val = 0 := by simp [val_fin]

theorem mul_nearest (n n' : Bool) (m e m' e' : ℕ) (hle : |(fin n m e).val * (fin n' m' e').val| ≤ 2 ^ 1023) :
    (mul (fin n m e) (fin n' m' e')).nearest ((fin n m e).val * (fin n' m' e').val) := by
  simp only [mul]
  split_ifs with h
  · have hzero : (fin n m e).val * (fin n' m' e').val = (fin (n != n') 0 0).val := by
      rcases h with rfl | rfl <;> simp
    rw [hzero]
    exact nearest_val (valid_zero _)
  · obtain ⟨hm, hm'⟩ := not_or.mp h
    rw [← signedVal_eq_val, ← signedVal_eq_val, signedVal_mul] at hle ⊢
    exact round_nearest _ (Nat.mul_ne_zero hm hm') (by decide) hle

/-- The exact sum of two aligned data is what `addAligned` rounds, in each of its branches. -/
theorem addAligned_nearest (n n' : Bool) {m m' : ℕ} (e e' : ℕ) (hm : m ≠ 0)
    (hle : |(fin n m e).val + (fin n' m' e').val| ≤ 2 ^ 1023) :
    (addAligned n m e n' m' e').nearest ((fin n m e).val + (fin n' m' e').val) := by
  have hx : m * 2 ^ (e - min e e') ≠ 0 := by positivity
  have hsum : (fin n m e).val + (fin n' m' e').val =
      (sgn n * (m * 2 ^ (e - min e e') : ℕ) + sgn n' * (m' * 2 ^ (e' - min e e') : ℕ)) * ulp (min e e') := by
    rw [val_fin_aligned n m (min_le_left e e'), val_fin_aligned n' m' (min_le_right e e'), add_mul]
  have hround {neg : Bool} {k : ℕ} := round_nearest_of_eq (neg := neg) (k := k) (e := min e e') hle
  clear hle
  generalize (fin n m e).val + (fin n' m' e').val = r at *
  unfold addAligned
  dsimp only
  generalize m * 2 ^ (e - min e e') = x at *
  generalize m' * 2 ^ (e' - min e e') = y at *
  subst hsum
  split_ifs with hn hxy hlt
  · refine hround (by omega) ?_
    rw [val_fin, hn]; push_cast; ring
  · have hzero : (sgn n * x + sgn n' * y) * ulp (min e e') = zero.val := by
      rw [zero, val_zero, sgn_eq_neg_of_ne hn, hxy]; ring
    rw [hzero]
    exact nearest_val (valid_zero false)
  · refine hround (by omega) ?_
    rw [val_fin, sgn_eq_neg_of_ne hn, Nat.cast_sub hlt.le]; ring
  · refine hround (by omega) ?_
    rw [val_fin, sgn_eq_neg_of_ne (Ne.symm hn), Nat.cast_sub (not_lt.mp hlt)]; ring

theorem add_nearest {n n' : Bool} {m e m' e' : ℕ} (hx : (fin n m e).valid) (hy : (fin n' m' e').valid)
    (hle : |(fin n m e).val + (fin n' m' e').val| ≤ 2 ^ 1023) :
    (add (fin n m e) (fin n' m' e')).nearest ((fin n m e).val + (fin n' m' e').val) := by
  simp only [add]
  split_ifs with hm hm' hm'
  · subst hm hm'
    rw [val_zero, val_zero, add_zero, ← val_zero (n && n') 0]
    exact nearest_val (valid_zero _)
  · subst hm
    rw [val_zero, zero_add]
    exact nearest_val hy
  · subst hm'
    rw [val_zero, add_zero]
    exact nearest_val hx
  · exact addAligned_nearest n n' e e' hm hle

end Sys2Proof.Machine.F64

namespace Sys2Proof.Machine

/-- Settles O27: `round` gives the nearest datum to every exact result, and both operations round one exact result. -/
theorem addAndMulRoundToNearestEven : Obligations.AddAndMulRoundToNearestEven := by
  intro x y hx hy
  match x, y, hx, hy with
  | .fin n m e, .fin n' m' e', hx, hy => exact ⟨F64.add_nearest hx hy, F64.mul_nearest n n' m e m' e'⟩

end Sys2Proof.Machine

/-! What one step can be, said once for every statement about all steps: the move it takes, and what the core can do. -/

namespace Sys2Proof.Machine

/-- The state after the core's first step of an ENCODE that passes its checks: the counters cleared, the tables rebuilt
and HEADER offered (R252). -/
def passBegun (s : State) : State :=
  offer .header { Sequencer.start with phase := .hdrEvents }
    { buildTables (beginPass s) with seq := some { Sequencer.start with phase := .hdrEvents } }

/-- What the core's step of `s` can leave. -/
inductive CoreStep (s : State) : State → Prop where
  | idle : s.busy = false → CoreStep s s
  | pass (q : Sequencer) : s.seq = some q → CoreStep s (passStep s)
  | error (c : ErrorCode) : c ≠ .noError → CoreStep s (raiseError c s)
  | effect (i : Instr) : s.seq = none → checkOf i s = none → CoreStep s (complete (effectOf i s))
  | begins : s.busy = true → s.seq = none → decode (commandWord s) = .ok .encode → encodeCheck s = none →
      CoreStep s (passBegun s)

theorem coreStep_kind {s t : State} (h : coreStep s = .next t) : CoreStep s t := by
  rcases coreStep_cases s with ⟨hb, e⟩ | ⟨-, ⟨q, hq⟩, e⟩ | ⟨hb, hs, i, hi, e⟩ | ⟨-, -, -, e⟩
  · rw [e] at h; cases h; exact .idle hb
  · rw [e] at h; cases h; exact .pass q hq
  · rw [e] at h
    rcases exec_cases i s with ⟨c, hc, e⟩ | ⟨-, hc, e⟩ | ⟨rfl, hc, e⟩ <;> rw [e] at h <;> cases h
    · exact .error c (ne_noError (checkOf_mem hc))
    · exact .effect i hs hc
    · exact .begins hb hs hi hc
  · rw [e] at h; cases h; exact .error _ (by decide)

/-- What the core's step of a pass can leave, by phase; `q` is the sequencer of `s`. While an event is offered it waits. -/
inductive PassStep (s : State) (q : Sequencer) : State → Prop where
  | waits : PassStep s q s
  | tables : q.phase = .tables → PassStep s q { buildTables s with seq := some { q with phase := .hdrEvents, hdr := 0 } }
  | header : q.phase = .hdrEvents → PassStep s q (offer (headerEvent s q.hdr) q s)
  | prepare : q.phase = .prepare → PassStep s q { s with seq := some (preparePlanes s q) }
  | kernelBuild : q.phase = .kernelBuild → PassStep s q { buildKernel 8 s with seq := some { q with phase := .blocks } }
  | block : q.phase = .blocks → PassStep s q (offer (blockEvent s q) q s)
  | finish : q.phase = .finishing → PassStep s q (offer .finish q s)

theorem passStep_kind {s : State} {q : Sequencer} (hq : s.seq = some q) : PassStep s q (passStep s) := by
  unfold passStep
  simp only [hq]
  split
  · exact .waits
  · cases hphase : q.phase with
    | tables => exact .tables hphase
    | hdrEvents => exact .header hphase
    | prepare => exact .prepare hphase
    | kernelBuild => exact .kernelBuild hphase
    | blocks => exact .block hphase
    | finishing => exact .finish hphase

/-- What a step of `s` can leave; `u` is `s` with the move it takes off the list. -/
inductive StepKind (s u : State) : State → Prop where
  | core {t : State} : (s.moves = [] ∨ ∃ rest, s.moves = .core :: rest) → CoreStep u t → StepKind s u t
  | hostRead (v : Word) : StepKind s u (hostReturns v u)
  | csrWrite (off : BitVec 12) (bytes : Nat) (v : Word) (rest : List Move) :
      s.moves = .host (.csrWrite off bytes v) :: rest → StepKind s u (csrWrite off bytes v u)
  | memWrite (a : Nat) (v : Byte) : a < u.params.memSize → StepKind s u (hostWriteByte a v u)
  | accept (q : Sequencer) (ev : WriterEvent) (rest : List Move) : s.moves = .sink .accept :: rest →
      u.seq = some q → q.pending = some ev → StepKind s u (eventAccepted q u)
  | fail : StepKind s u (raiseError .writerFail u)
  | reset (rest : List Move) : s.moves = .reset :: rest → StepKind s u (resetInput u)

theorem stepKind_of_hostAccess {s u t : State} {a : HostAccess} {rest : List Move} (hm : s.moves = .host a :: rest)
    (h : hostAccess a u = .next t) : StepKind s u t := by
  cases a with
  | csrRead off bytes => cases h; exact .hostRead _
  | csrWrite off bytes v => cases h; exact .csrWrite off bytes v rest hm
  | memRead addr =>
    simp only [hostAccess] at h
    split at h
    · cases h; exact .hostRead _
    · cases h
  | memWrite addr v =>
    simp only [hostAccess] at h
    split at h
    · next ha => cases h; exact .memWrite addr v ha
    · cases h

theorem stepKind_of_sinkAnswer {s u t : State} {a : Answer} {rest : List Move} (hm : s.moves = .sink a :: rest)
    (h : sinkAnswer a u = .next t) : StepKind s u t := by
  rcases sinkAnswer_cases a u with ⟨q, ev, hq, he, ⟨rfl, e⟩ | ⟨rfl, e⟩⟩ | ⟨-, e⟩ <;> rw [e] at h <;> cases h
  · exact .accept q ev rest hm hq he
  · exact .fail

theorem step_kind {s t : State} (h : step s = .next t) : ∃ rest, StepKind s { s with moves := rest } t := by
  cases hm : s.moves with
  | nil =>
    rw [step_nil hm] at h
    exact ⟨s.moves, .core (.inl hm) (coreStep_kind h)⟩
  | cons m rest =>
    rw [step_cons hm] at h
    refine ⟨rest, ?_⟩
    cases m with
    | host a => exact stepKind_of_hostAccess hm h
    | sink a => exact stepKind_of_sinkAnswer hm h
    | reset => cases h; exact .reset rest hm
    | core => exact .core (.inr ⟨rest, hm⟩) (coreStep_kind h)

end Sys2Proof.Machine

/-! The invariant is kept by what a command does: data memory, the kernel and the tables after its effect, and the two
ends of a command. -/

namespace Sys2Proof.Machine

theorem memoryOk_storeBuffer {s : State} {base n : Nat} (h : MemoryOk s) (hin : inRange s ⟨base, n⟩ = true)
    (srcs : Nat → List Nat) (f : Nat → Byte) : MemoryOk (storeBuffer base n srcs f s) := by
  obtain ⟨hwf, hbelow⟩ := h
  refine ⟨wf_storeBuffer hwf _ _ _ _, Memory.below_writeBytes _ hbelow ?_⟩
  simpa using inRange_iff.mp hin

/-- A command that passes its check stores inside data memory alone (R88, R302). -/
theorem inRange_of_checkOf_eq_none {i : Instr} {s : State} (h : checkOf i s = none) :
    ∀ b ∈ storedBuffers i s, inRange s b = true := by
  cases i <;>
    simp_all [storedBuffers, checkOf, xformCheck, quantCheck, zigzagCheck, extendCheck, cropCheck, firstError_eq_none]

theorem memoryOk_effectOf {i : Instr} {s : State} (h : MemoryOk s) (hc : checkOf i s = none) :
    MemoryOk (effectOf i s) := by
  have hin := inRange_of_checkOf_eq_none hc
  cases i
  case genbasis | qscale | qtbuild | zigzag | encode => exact h
  case zigzagBT =>
    exact memoryOk_storeBuffer (memoryOk_storeBuffer h (hin (zigzagBlockBuffer true s) (by simp [storedBuffers])) _ _)
      (hin (zigzagTableBuffer true s) (by simp [storedBuffers])) _ _
  all_goals exact memoryOk_storeBuffer h (hin _ (List.mem_singleton.mpr rfl)) _ _

theorem kernelOk_buildKernel {n : Nat} (h1 : 1 ≤ n) (h8 : n ≤ Config.kMax) (s : State) : KernelOk (buildKernel n s) := by
  have hn : (BitVec.ofNat 32 n).toNat = n := by
    rw [BitVec.toNat_ofNat, Nat.mod_eq_of_lt (by unfold Config.kMax at h8; omega)]
  have hne : BitVec.ofNat 32 n ≠ 0 := fun h => by
    rw [h] at hn; simp at hn; omega
  simpa [KernelOk, hn, h8] using hne

theorem kernelOk_effectOf {i : Instr} {s : State} (h : KernelOk s) (hc : checkOf i s = none) :
    KernelOk (effectOf i s) := by
  cases i
  case genbasis n =>
    have hn : 1 ≤ n ∧ n ≤ Config.kMax := by
      simp [checkOf, genbasisCheck, firstError_eq_none] at hc
      omega
    exact kernelOk_buildKernel hn.1 hn.2 s
  case zigzag | zigzagB | zigzagT | zigzagBT => rw [effectOf, zigzagEffect_frame]; exact h
  all_goals exact h

theorem tablesOf_buildTables (s : State) : tablesOf (buildTables s) (aQuality s) := ⟨rfl, rfl, rfl, rfl⟩

theorem tablesOk_effectOf {i : Instr} {s : State} (h : TablesOk s) : TablesOk (effectOf i s) := by
  cases i
  case qtbuild => exact fun _ => ⟨_, tablesOf_buildTables s⟩
  case zigzag | zigzagB | zigzagT | zigzagBT => rw [effectOf, zigzagEffect_frame]; exact h
  all_goals exact h

theorem passOk_of_seq_none {s : State} (h : s.seq = none) : PassOk s := fun q hq => by rw [h] at hq; cases hq

namespace State.Inv

theorem raiseError {s : State} (h : s.Inv) {c : ErrorCode} (hc : c ≠ .noError) : (raiseError c s).Inv where
  params := h.params
  memory := h.memory
  kernel := h.kernel
  tables := h.tables
  status := by simp [StatusOk, hc]
  pass := passOk_of_seq_none rfl

theorem complete {s : State} (h : s.Inv) : (complete s).Inv where
  params := h.params
  memory := h.memory
  kernel := h.kernel
  tables := h.tables
  status := ⟨nofun, h.status.2⟩
  pass := passOk_of_seq_none rfl

theorem effectOf {i : Instr} {s : State} (h : s.Inv) (hs : s.seq = none) (hc : checkOf i s = none) :
    (effectOf i s).Inv where
  params := by rw [effectOf_frame]; exact h.params
  memory := memoryOk_effectOf h.memory hc
  kernel := kernelOk_effectOf h.kernel hc
  tables := tablesOk_effectOf h.tables
  status := by rw [effectOf_frame]; exact h.status
  pass := passOk_of_seq_none (by rw [effectOf_frame]; exact hs)

theorem accept {s : State} (h : s.Inv) (w : Word) : (accept w s).Inv where
  params := h.params
  memory := h.memory
  kernel := h.kernel
  tables := h.tables
  status := by simp [StatusOk]
  pass := passOk_of_seq_none rfl

theorem csrWrite {s : State} (h : s.Inv) (off : BitVec 12) (bytes : Nat) (v : Word) : (csrWrite off bytes v s).Inv := by
  rcases csrWrite_cases off bytes v s with ⟨-, -, e⟩ | ⟨-, -, e⟩ | ⟨-, -, e⟩ | e | e <;> rw [e]
  · unfold writeCmd
    split
    · exact { h with }
    · exact h.accept v
  · have hstatus : StatusOk (writeStatus v s) := by
      refine ⟨fun hb => ?_, h.status.2⟩
      obtain ⟨hdone, hrest⟩ := h.status.1 hb
      exact ⟨by simp [writeStatus, hdone], hrest⟩
    exact { h with status := hstatus }
  · exact { h with }
  · exact { h with }
  · exact h

theorem hostWriteByte {s : State} (h : s.Inv) {a : Nat} (ha : a < s.params.memSize) (v : Byte) :
    (hostWriteByte a v s).Inv :=
  { h with memory := ⟨Memory.wf_write h.memory.1 a v, Memory.below_write h.memory.2 ha v⟩ }

end State.Inv

/-! The invariant of a pass (R251, R269): the grid, and what the core's step and an accepted event leave. -/

/-- Both dimensions of an ENCODE that passes its checks are in 2..65535 (R252). -/
theorem dims_of_encodeCheck_eq_none {s : State} (h : encodeCheck s = none) :
    (2 ≤ aWidth s ∧ aWidth s ≤ 65535) ∧ 2 ≤ aHeight s ∧ aHeight s ≤ 65535 := by
  have hdims := firstError_eq_none.mp h _ List.mem_cons_self
  rw [Bool.not_eq_false', Bool.and_eq_true] at hdims
  exact ⟨of_decide_eq_true hdims.1, of_decide_eq_true hdims.2⟩

/-- A padded dimension holds a whole macroblock, and at most 4096 of them (R258). -/
theorem passDim_mbSize_bounds {s : State} {d : Nat} (hd : 2 ≤ d ∧ d ≤ 65535) (hpad : needsPadding s = false → d % 16 = 0) :
    1 ≤ passDim s d Config.mbSize / 16 ∧ passDim s d Config.mbSize / 16 ≤ 4096 := by
  unfold passDim paddedDim Config.mbSize
  split
  · omega
  · next hp =>
    have := hpad (by simpa using hp)
    omega

/-- The grid of macroblocks is neither empty nor larger than 4096 by 4096 (R261). -/
theorem grid_bounds {s : State} (h : encodeCheck s = none) :
    (1 ≤ passWp s / 16 ∧ passWp s / 16 ≤ 4096) ∧ 1 ≤ passHp s / 16 ∧ passHp s / 16 ≤ 4096 := by
  obtain ⟨hw, hh⟩ := dims_of_encodeCheck_eq_none h
  refine ⟨passDim_mbSize_bounds hw fun hp => ?_, passDim_mbSize_bounds hh fun hp => ?_⟩ <;>
    (have := of_decide_eq_false hp; unfold Config.mbSize at this; omega)

/-- The kind of the header event that follows `hdr` accepted ones is its place in the order of R269. -/
theorem kind_headerEvent (s : State) {hdr : Nat} (h : hdr ≤ 3) : (headerEvent s hdr).kind = BitVec.ofNat 3 hdr := by
  interval_cases hdr <;> rfl

theorem kind_blockEvent (s : State) (q : Sequencer) : (blockEvent s q).kind = blockKind q.e := by
  unfold blockEvent blockKind
  split
  · rfl
  · split <;> rfl

theorem pendingKind_some {q : Sequencer} {ev : WriterEvent} (hq : q.pending = some ev) : pendingKind q ev.kind := by
  intro ev' h
  rw [hq] at h; cases h; rfl

theorem pendingKind_none {q : Sequencer} (hq : q.pending = none) (k : BitVec 3) : pendingKind q k := by
  intro ev h
  rw [hq] at h; cases h

/-- A step of a pass keeps the pass invariant when its phase's part holds after it: all else the invariant reads but the
kernel and the counters stays. -/
theorem PassOk.of_frame {s t : State} {q q' : Sequencer} (h : PassOk s) (hq : s.seq = some q)
    (ht : t = { s with
      seq := some q', kernel := t.kernel, korder := t.korder, kvalid := t.kvalid, stream := t.stream,
      blkCount := t.blkCount, mbCount := t.mbCount })
    (hstep : encodeCheck s = none → sequencerOk s q → sequencerOk t q') : PassOk t := by
  obtain ⟨hb, hd, hc, hv, htables, hseq⟩ := h q hq
  have hseq' := hstep hc hseq
  rw [ht] at hseq' ⊢
  intro r hr
  cases hr
  exact ⟨hb, hd, hc, hv, htables, hseq'⟩

/-- The core's step of a pass offers the event its phase names, or moves the phase on. -/
theorem passOk_of_passStep {s t : State} {q : Sequencer} (h : PassOk s) (hq : s.seq = some q) (hst : PassStep s q t) :
    PassOk t := by
  cases hst with
  | waits => exact h
  | tables hphase =>
    obtain ⟨-, -, -, -, -, hseq⟩ := h q hq
    simp [sequencerOk, hphase] at hseq
  | header hphase =>
    refine h.of_frame hq rfl fun _ hseq => ?_
    simp only [sequencerOk, hphase] at hseq ⊢
    obtain ⟨hhdr, hblk, hmb, -⟩ := hseq
    exact ⟨hhdr, hblk, hmb, kind_headerEvent s hhdr ▸ pendingKind_some rfl⟩
  | prepare hphase =>
    refine h.of_frame hq rfl fun _ hseq => ?_
    simp only [sequencerOk, hphase] at hseq
    obtain ⟨hblk, hmb, hp⟩ := hseq
    exact ⟨hblk, hmb, hp, ⟨rfl, rfl, rfl, rfl, rfl, rfl⟩, rfl, rfl, rfl⟩
  | kernelBuild hphase =>
    refine h.of_frame hq rfl fun hc hseq => ?_
    simp only [sequencerOk, hphase] at hseq
    obtain ⟨hblk, hmb, hp, hgrid, hmx, hmy, he⟩ := hseq
    obtain ⟨-, -, -, -, hmbw, hmbh⟩ := id hgrid
    obtain ⟨⟨hw, -⟩, hh, -⟩ := grid_bounds hc
    simp only [sequencerOk]
    refine ⟨rfl, rfl, hgrid, by omega, by omega, by omega, ?_, ?_, pendingKind_none hp _⟩
    · simp [hblk, hmx, hmy, he]
    · simp [hmb, hmx, hmy]
  | block hphase =>
    refine h.of_frame hq rfl fun _ hseq => ?_
    simp only [sequencerOk, hphase] at hseq ⊢
    obtain ⟨hk, ho, hgrid, hmx, hmy, he, hblk, hmb, -⟩ := hseq
    exact ⟨hk, ho, hgrid, hmx, hmy, he, hblk, hmb, kind_blockEvent s q ▸ pendingKind_some rfl⟩
  | finish hphase =>
    refine h.of_frame hq rfl fun _ hseq => ?_
    simp only [sequencerOk, hphase] at hseq ⊢
    obtain ⟨hk, ho, hgrid, hblk, hmb, -⟩ := hseq
    exact ⟨hk, ho, hgrid, hblk, hmb, pendingKind_some (ev := .finish) rfl⟩

end Sys2Proof.Machine

/-! Every move keeps the invariant: an event the sink accepts (R266, R270), the core's steps, and reset (R340, R341). -/

namespace Sys2Proof.Machine

/-- Every macroblock position of the grid has a raster number below 4096 * 4096, so no counter overflows (R39). -/
theorem raster_lt {mx my mbw mbh : Nat} (hmx : mx < mbw) (hmy : my < mbh) (hw : mbw ≤ 4096) (hh : mbh ≤ 4096) :
    my * mbw + mx < 4096 * 4096 := by
  calc my * mbw + mx < (my + 1) * mbw := by rw [Nat.succ_mul]; omega
    _ ≤ 4096 * 4096 := Nat.mul_le_mul (by omega) hw

theorem toNat_add_one {c : Word} (h : c.toNat < 6 * (4096 * 4096)) : (c + 1).toNat = c.toNat + 1 := by
  rw [BitVec.toNat_add_of_lt] <;> simp; omega

/-- The position after an accepted block event counts one block more, and one macroblock more after e = 5 (R252,
R266). -/
theorem sequencerOk_nextPosition {s : State} {q : Sequencer} (hc : encodeCheck s = none) (hphase : q.phase = .blocks)
    (h : sequencerOk s q) :
    sequencerOk { s with
      blkCount := s.blkCount + 1, mbCount := if q.e = 5 then s.mbCount + 1 else s.mbCount,
      seq := some (nextPosition { q with pending := none }) } (nextPosition { q with pending := none }) := by
  simp only [sequencerOk, hphase] at h
  obtain ⟨hk, ho, hgrid, hmx, hmy, he, hblk, hmb, -⟩ := h
  obtain ⟨-, -, -, -, hmbw, hmbh⟩ := id hgrid
  obtain ⟨⟨-, hw⟩, -, hh⟩ := grid_bounds hc
  have hraster := raster_lt hmx hmy (hmbw ▸ hw) (hmbh ▸ hh)
  have hblk' : (s.blkCount + 1).toNat = 6 * (q.my * q.mbw + q.mx) + q.e + 1 := by rw [toNat_add_one (by omega), hblk]
  have hmb' : (s.mbCount + 1).toNat = q.my * q.mbw + q.mx + 1 := by rw [toNat_add_one (by omega), hmb]
  have hrow : (q.my + 1) * q.mbw = q.my * q.mbw + q.mbw := Nat.succ_mul ..
  unfold nextPosition
  dsimp only
  split_ifs with h5 hcol hlast
  · simp only [sequencerOk, hphase]
    exact ⟨hk, ho, hgrid, hcol, hmy, by omega, by omega, by omega, pendingKind_none rfl _⟩
  · simp only [sequencerOk, hphase]
    exact ⟨hk, ho, hgrid, by omega, hlast, by omega, by omega, by omega, pendingKind_none rfl _⟩
  · have hall : q.mbw * q.mbh = q.my * q.mbw + q.mbw := by rw [← hrow, show q.my + 1 = q.mbh by omega, Nat.mul_comm]
    simp only [sequencerOk]
    exact ⟨hk, ho, hgrid, by omega, by omega, pendingKind_none rfl _⟩
  · simp only [sequencerOk, hphase]
    exact ⟨hk, ho, hgrid, hmx, hmy, by omega, by omega, hmb, pendingKind_none rfl _⟩

/-- An accepted event moves the pass on, or completes it (R266, R270). -/
theorem passOk_eventAccepted {s : State} {q : Sequencer} {ev : WriterEvent} (h : PassOk s) (hq : s.seq = some q)
    (hev : q.pending = some ev) : PassOk (eventAccepted q s) := by
  unfold eventAccepted
  dsimp only
  split
  case h_1 hphase =>
    refine h.of_frame hq rfl fun _ hseq => ?_
    simp only [sequencerOk, hphase] at hseq
    obtain ⟨hhdr, hblk, hmb, -⟩ := hseq
    split
    · simp only [sequencerOk, hphase]
      exact ⟨by omega, hblk, hmb, pendingKind_none rfl _⟩
    · exact ⟨hblk, hmb, rfl⟩
  case h_2 hphase => exact h.of_frame hq rfl fun hc hseq => sequencerOk_nextPosition hc hphase hseq
  case h_3 => exact passOk_of_seq_none rfl
  all_goals
    next hphase =>
    obtain ⟨-, -, -, -, -, hseq⟩ := h q hq
    simp [sequencerOk, hphase, hev] at hseq

/-- An ENCODE that passes its checks begins a pass with HEADER offered and the counters at 0 (R252, R269). -/
theorem passOk_passBegun {s : State} (hb : s.busy = true) (hd : decode (commandWord s) = .ok .encode)
    (hc : encodeCheck s = none) : PassOk (passBegun s) := by
  intro q hq
  cases hq
  exact ⟨hb, hd, hc, rfl, tablesOf_buildTables s, by decide, rfl, rfl, pendingKind_some (ev := .header) rfl⟩

/-- A step of a pass touches the kernel in KERNEL_BUILD alone, for the one of order 8 (R256). -/
theorem kernelOk_of_passStep {s t : State} {q : Sequencer} (h : KernelOk s) (hst : PassStep s q t) : KernelOk t := by
  cases hst with
  | kernelBuild => exact kernelOk_buildKernel (by decide) (by decide) s
  | _ => exact h

/-- A step of a pass touches the tables in TABLES alone, all four together (R254). -/
theorem tablesOk_of_passStep {s t : State} {q : Sequencer} (h : TablesOk s) (hst : PassStep s q t) : TablesOk t := by
  cases hst with
  | tables => exact fun _ => ⟨_, tablesOf_buildTables s⟩
  | _ => exact h

namespace State.Inv

theorem passStep {s : State} {q : Sequencer} (h : s.Inv) (hq : s.seq = some q) : (passStep s).Inv where
  params := by rw [passStep_frame]; exact h.params
  memory := by rw [passStep_frame]; exact h.memory
  kernel := kernelOk_of_passStep h.kernel (passStep_kind hq)
  tables := tablesOk_of_passStep h.tables (passStep_kind hq)
  status := by rw [passStep_frame]; exact h.status
  pass := passOk_of_passStep h.pass hq (passStep_kind hq)

theorem passBegun {s : State} (h : s.Inv) (hb : s.busy = true) (hd : decode (commandWord s) = .ok .encode)
    (hc : encodeCheck s = none) : (passBegun s).Inv where
  params := h.params
  memory := h.memory
  kernel := h.kernel
  tables := fun _ => ⟨_, tablesOf_buildTables s⟩
  status := h.status
  pass := passOk_passBegun hb hd hc

theorem eventAccepted {s : State} (h : s.Inv) {q : Sequencer} {ev : WriterEvent} (hq : s.seq = some q)
    (hev : q.pending = some ev) : (eventAccepted q s).Inv := by
  have hpass := passOk_eventAccepted h.pass hq hev
  rcases eventAccepted_cases q s with ⟨-, e⟩ | ⟨-, e⟩ | ⟨-, -, q', e⟩ <;> rw [e] at hpass ⊢
  · exact h.complete
  · exact { h with pass := hpass }
  · exact { h with pass := hpass }

theorem coreStep {s t : State} (h : s.Inv) (hst : CoreStep s t) : t.Inv := by
  cases hst with
  | idle => exact h
  | pass q hq => exact h.passStep hq
  | error c hc => exact h.raiseError hc
  | effect i hs hc => exact (h.effectOf hs hc).complete
  | begins hb _ hd hc => exact h.passBegun hb hd hc

end State.Inv

theorem memoryOk_memoryAfter {s : State} (h : s.Inv) :
    Memory.wf (memoryAfter s) ∧ Memory.below s.params.memSize (memoryAfter s) := by
  unfold memoryAfter
  split
  · next t e =>
    obtain ⟨hwf, hbelow⟩ := (h.coreStep (coreStep_kind e)).memory
    rw [(coreStep_frame e).1.1] at hbelow
    exact ⟨hwf, hbelow⟩
  · exact h.memory

/-- An aborted command leaves data memory canonical and inside its space: it writes only addresses that the memory
before or after it lists (R341). -/
theorem memoryOk_abortedMemory {s : State} (h : s.Inv) :
    Memory.wf (abortedMemory s) ∧ Memory.below s.params.memSize (abortedMemory s) := by
  obtain ⟨-, hafter⟩ := memoryOk_memoryAfter h
  unfold abortedMemory
  refine List.foldlRecOn (motive := fun m => Memory.wf m ∧ Memory.below s.params.memSize m) _ _ h.memory
    fun m ⟨hwf, hbelow⟩ c hc => ?_
  have hlt : c.1 < s.params.memSize := (List.mem_append.mp hc).elim (hafter c) (h.memory.2 c)
  split
  · exact ⟨hwf, hbelow⟩
  · exact ⟨Memory.wf_write hwf _ _, Memory.below_write hbelow hlt _⟩

theorem inv_resetWith {p : Params} (hp : p.wf) : (State.resetWith p).Inv where
  params := hp
  memory := ⟨⟨.nil, nofun⟩, nofun⟩
  kernel := ⟨by simp [State.resetWith], nofun⟩
  tables := nofun
  status := ⟨nofun, by simp [State.resetWith]⟩
  pass := nofun

theorem State.Inv.resetInput {s : State} (h : s.Inv) : (resetInput s).Inv := by
  have hmem : MemoryOk (Machine.resetInput s) := by
    unfold Machine.resetInput
    dsimp only [MemoryOk]
    split
    · exact memoryOk_abortedMemory h
    · exact h.memory
  exact { inv_resetWith h.params with memory := hmem }

/-- Settles O58. -/
theorem resetMeetsTheInvariant : Obligations.ResetMeetsTheInvariant := fun _ _ hp => { inv_resetWith hp with }

/-- Settles O59: the move taken decides which of the lemmas of `State.Inv` applies. -/
theorem everyStepKeepsTheInvariant : Obligations.EveryStepKeepsTheInvariant := by
  intro s t h hst
  obtain ⟨rest, hkind⟩ := step_kind hst
  have hu : State.Inv { s with moves := rest } := { h with }
  cases hkind with
  | core _ hcore => exact hu.coreStep hcore
  | hostRead v => exact { h with }
  | csrWrite off bytes v => exact hu.csrWrite off bytes v
  | memWrite a v ha => exact hu.hostWriteByte ha v
  | accept q ev _ _ hq hev => exact hu.eventAccepted hq hev
  | fail => exact hu.raiseError (by decide)
  | reset => exact hu.resetInput

end Sys2Proof.Machine

/-! The CSR window: what a host access to it does, a read after a write of an argument CSR, and the offsets of the
register map. -/

namespace Sys2Proof.Machine

theorem step_csrRead (off : BitVec 12) (bytes : Nat) (s : State) :
    step (withMove (.host (.csrRead off bytes)) s) = .next (hostReturns (csrRead s off bytes) s) := rfl

theorem step_csrWrite (off : BitVec 12) (bytes : Nat) (v : Word) (s : State) :
    step (withMove (.host (.csrWrite off bytes v)) s) = .next (csrWrite off bytes v s) := rfl

/-- A read of the window returns its word and changes only the host's data and the draw counter. -/
theorem step_csrRead_frame (off : BitVec 12) (bytes : Nat) (s : State) :
    ∃ t, step (withMove (.host (.csrRead off bytes)) s) = .next t ∧ t.hostData = csrRead s off bytes ∧
      t = { s with hostData := t.hostData, draws := t.draws } := ⟨_, step_csrRead off bytes s, rfl, rfl⟩

theorem csrAligned_eq_false {off : BitVec 12} {bytes : Nat} (h : bytes ≠ 4 ∨ off.toNat % 4 ≠ 0) :
    csrAligned off bytes = false := decide_eq_false (by omega)

theorem csrRead_eq_csrWord {off : BitVec 12} (h : off.toNat % 4 = 0) (s : State) :
    csrRead s off 4 = csrWord s off.toNat := if_pos (decide_eq_true ⟨rfl, h⟩)

/-- The offsets of the argument CSRs (R31). -/
abbrev argOffsets : List (BitVec 12) :=
  [0x020#12, 0x024#12, 0x028#12, 0x02C#12, 0x030#12, 0x034#12, 0x038#12, 0x03C#12, 0x040#12, 0x044#12, 0x048#12]

theorem csrWrite_arg {o : BitVec 12} (ho : o ∈ argOffsets) (v : Word) (s : State) :
    csrWrite o 4 v s = { s with csr := writeArg o.toNat v s.csr } := by
  fin_cases ho <;> rfl

/-- A read of an argument CSR after a write to one: the value at its own offset, the old one at every other. -/
theorem csrRead_writeArg {o o' : BitVec 12} (ho : o ∈ argOffsets) (ho' : o' ∈ argOffsets) (v : Word) (s : State) :
    csrRead { s with csr := writeArg o.toNat v s.csr } o' 4 = if o' = o then v else csrRead s o' 4 := by
  fin_cases ho <;> fin_cases ho' <;> rfl

/-- Settles O18. -/
theorem argumentCsrHoldsLastWrite : Obligations.ArgumentCsrHoldsLastWrite := by
  intro s v o ho
  refine ⟨_, step_csrWrite o 4 v s, ?_⟩
  rw [csrWrite_arg ho]
  exact ⟨by rw [csrRead_writeArg ho ho, if_pos rfl], rfl,
    fun o' ho' hne => by rw [csrRead_writeArg ho ho', if_neg hne]⟩

/-- Settles O20. -/
theorem oddCsrAccessIsIgnored : Obligations.OddCsrAccessIsIgnored := by
  intro s off bytes v hodd
  have hal := csrAligned_eq_false hodd
  obtain ⟨t, ht, hdata, hframe⟩ := step_csrRead_frame off bytes s
  refine ⟨?_, t, ht, ?_, hframe⟩
  · rw [step_csrWrite, csrWrite, hal]; rfl
  · rw [hdata, csrRead, hal]; rfl

/-- A write to an aligned offset that is no writable register is ignored (R30 to R32). -/
theorem step_csrw_ignored {off : BitVec 12}
    (h : off.toNat < 0x008 ∨ (0x010 < off.toNat ∧ off.toNat < 0x020) ∨ 0x048 < off.toNat) (v : Word) (s : State) :
    step (withMove (csrw off v) s) = .next s := by
  have harg : writeArg off.toNat v s.csr = s.csr := by
    unfold writeArg
    split
    case h_12 => rfl
    all_goals omega
  rw [csrw, step_csrWrite]
  rcases csrWrite_cases off 4 v s with ⟨rfl, -, -⟩ | ⟨rfl, -, -⟩ | ⟨rfl, -, -⟩ | e | e
  · exact absurd h (by decide)
  · exact absurd h (by decide)
  · exact absurd h (by decide)
  · rw [e, harg]
  · rw [e]

/-- The offsets below the windows that hold a register (R31). -/
abbrev registerOffsets : List Nat :=
  [0x000, 0x004, 0x008, 0x00C, 0x010, 0x020, 0x024, 0x028, 0x02C, 0x030, 0x034, 0x038, 0x03C, 0x040, 0x044, 0x048,
    0x060, 0x064, 0x068, 0x06C, 0x070]

theorem csrWord_of_not_register {off : Nat} (h : off ∉ registerOffsets) (s : State) :
    csrWord s off = windowWord s off := by
  unfold csrWord
  split
  case h_22 => rfl
  all_goals exact absurd (by decide) h

theorem windowWord_reserved {off : Nat} (h : off < 0x100 ∨ 0x400 ≤ off) (s : State) : windowWord s off = 0 := by
  rcases h with h | h
  · rw [windowWord, if_pos h]
  · rw [windowWord, if_neg (by omega), if_neg (by omega), if_neg (by omega), if_neg (by omega), if_neg (by omega),
      if_neg (by omega)]

/-- A reserved aligned offset reads 0 (R31). -/
theorem csrRead_reserved {off : BitVec 12} (h4 : off.toNat % 4 = 0)
    (h : off.toNat ∈ [0x014, 0x018, 0x01C, 0x04C, 0x050, 0x054, 0x058, 0x05C] ∨
      (0x074 ≤ off.toNat ∧ off.toNat < 0x100) ∨ 0x400 ≤ off.toNat) (s : State) : csrRead s off 4 = 0 := by
  simp only [List.mem_cons, List.not_mem_nil, or_false] at h
  rw [csrRead_eq_csrWord h4, csrWord_of_not_register, windowWord_reserved (by omega)]
  simp only [List.mem_cons, List.not_mem_nil, or_false]
  omega

/-- Settles O21. -/
theorem reservedAndReadOnlyOffsets : Obligations.ReservedAndReadOnlyOffsets := fun s =>
  ⟨⟨rfl, rfl, rfl, rfl, rfl, rfl, rfl⟩, fun off bytes => step_csrRead_frame off bytes s, fun _ v h4 =>
    ⟨fun h => csrRead_reserved h4 h s, fun h => step_csrw_ignored h v s⟩⟩

/-- An aligned read of a window offset (R43). -/
theorem csrRead_window {off : Nat} (h4 : off % 4 = 0) (hlo : 0x100 ≤ off) (hhi : off < 0x400) (s : State) :
    csrRead s (BitVec.ofNat 12 off) 4 = windowWord s off := by
  have hoff : (BitVec.ofNat 12 off).toNat = off := by rw [BitVec.toNat_ofNat, Nat.mod_eq_of_lt (by omega)]
  rw [csrRead_eq_csrWord (by rwa [hoff]), hoff, csrWord_of_not_register]
  simp only [List.mem_cons, List.not_mem_nil, or_false]
  omega

/-- Word `m` of a quantization window whose tables are valid and at rest. -/
theorem tableWindow_valid {s : State} (hv : s.qvalid = true) (hr : rebuildsTables s = false) (t : Vector Byte 64)
    (base m : Nat) : tableWindow s t base (base + 4 * m) = tableWord32 t m := by
  simp [tableWindow, hv, hr]

/-- Word `m` of the KERNEL window while the kernel is valid and at rest. -/
theorem kernelWindow_valid {s : State} (hv : s.kvalid = true) (hr : rebuildsKernel s = false) (m : Nat) :
    kernelWindow s (0x200 + 4 * m) = kernelWord32 s.kernel m := by
  simp [kernelWindow, hv, hr]

theorem windowWord_qtLuma {m : Nat} (hm : m < 16) (s : State) :
    windowWord s (0x100 + 4 * m) = tableWindow s s.qtLuma 0x100 (0x100 + 4 * m) := by
  rw [windowWord, if_neg (by omega), if_pos (by omega)]

theorem windowWord_qtChroma {m : Nat} (hm : m < 16) (s : State) :
    windowWord s (0x140 + 4 * m) = tableWindow s s.qtChroma 0x140 (0x140 + 4 * m) := by
  rw [windowWord, if_neg (by omega), if_neg (by omega), if_pos (by omega)]

theorem windowWord_qtzLuma {m : Nat} (hm : m < 16) (s : State) :
    windowWord s (0x180 + 4 * m) = tableWindow s s.qtzLuma 0x180 (0x180 + 4 * m) := by
  rw [windowWord, if_neg (by omega), if_neg (by omega), if_neg (by omega), if_pos (by omega)]

theorem windowWord_qtzChroma {m : Nat} (hm : m < 16) (s : State) :
    windowWord s (0x1C0 + 4 * m) = tableWindow s s.qtzChroma 0x1C0 (0x1C0 + 4 * m) := by
  rw [windowWord, if_neg (by omega), if_neg (by omega), if_neg (by omega), if_neg (by omega), if_pos (by omega)]

theorem windowWord_kernel {m : Nat} (hm : m < 128) (s : State) :
    windowWord s (0x200 + 4 * m) = kernelWindow s (0x200 + 4 * m) := by
  rw [windowWord, if_neg (by omega), if_neg (by omega), if_neg (by omega), if_neg (by omega), if_neg (by omega),
    if_pos (by omega)]

/-- Word `m` of a quantization window as the host reads it. -/
theorem csrRead_table {s : State} (hv : s.qvalid = true) (hr : rebuildsTables s = false) {base m : Nat} (hm : m < 16)
    (hbase : base % 4 = 0 ∧ 0x100 ≤ base ∧ base ≤ 0x1C0) {t : Vector Byte 64}
    (ht : windowWord s (base + 4 * m) = tableWindow s t base (base + 4 * m)) :
    csrRead s (BitVec.ofNat 12 (base + 4 * m)) 4 = tableWord32 t m := by
  rw [csrRead_window (by omega) (by omega) (by omega), ht, tableWindow_valid hv hr]

/-- Word `m` of the KERNEL window as the host reads it. -/
theorem csrRead_kernel {s : State} (hv : s.kvalid = true) (hr : rebuildsKernel s = false) {m : Nat} (hm : m < 128) :
    csrRead s (BitVec.ofNat 12 (0x200 + 4 * m)) 4 = kernelWord32 s.kernel m := by
  rw [csrRead_window (by omega) (by omega) (by omega), windowWord_kernel hm, kernelWindow_valid hv hr]

/-- Settles O23. -/
theorem tableWindowsReadLittleEndian : Obligations.TableWindowsReadLittleEndian := by
  intro s
  refine ⟨fun m hm hv hr => ⟨?_, ?_, ?_, ?_⟩, fun i hi j hj hv hr => ?_, fun off hlo hhi => ⟨fun v => ?_, ?_⟩⟩
  · exact csrRead_table hv hr hm (by decide) (windowWord_qtLuma hm s)
  · exact csrRead_table hv hr hm (by decide) (windowWord_qtChroma hm s)
  · exact csrRead_table hv hr hm (by decide) (windowWord_qtzLuma hm s)
  · exact csrRead_table hv hr hm (by decide) (windowWord_qtzChroma hm s)
  · have hat : kernelAt s.kernel i j = entry s.kernel (8 * i + j) := if_pos ⟨hi, hj⟩
    rw [hat, show 0x200 + 8 * (8 * i + j) = 0x200 + 4 * (2 * (8 * i + j)) by omega,
      show 0x204 + 8 * (8 * i + j) = 0x200 + 4 * (2 * (8 * i + j) + 1) by omega,
      csrRead_kernel hv hr (by omega), csrRead_kernel hv hr (by omega), kernelWord32, kernelWord32,
      show 2 * (8 * i + j) / 2 = 8 * i + j by omega, show (2 * (8 * i + j) + 1) / 2 = 8 * i + j by omega,
      show 2 * (8 * i + j) % 2 = 0 by omega, show (2 * (8 * i + j) + 1) % 2 = 1 by omega]
    exact ⟨rfl, rfl⟩
  · exact step_csrw_ignored (.inr (.inr (by omega))) v s
  · obtain ⟨t, ht, -, hframe⟩ := step_csrRead_frame off 4 s
    exact ⟨t, ht, hframe⟩

/-! STATUS and IEN as the host reads and writes them (R34 to R36), and every register after reset. -/

/-- The layout of STATUS (R34): which field each bit of the word shows. -/
theorem getLsbD_statusWord (s : State) (i : Nat) :
    (statusWord s).getLsbD i =
      if i = 0 then s.busy else if i = 1 then s.done else if i = 2 then s.err else if i = 3 then s.ovr
      else if i < 8 then s.errCode.code.getLsbD (i - 4) else if i = 8 then s.kvalid else if i = 9 then s.qvalid
      else false := by
  simp only [statusWord, BitVec.getLsbD_append, BitVec.getLsbD_ofBool, BitVec.getLsbD_zero]
  obtain hlt | hge := Nat.lt_or_ge i 10
  · interval_cases i <;> simp
  · grind

/-- Settles O14, bit by bit from the layout of STATUS. -/
theorem statusReadsItsFields : Obligations.StatusReadsItsFields := by
  refine ⟨fun s => ?_, rfl, rfl, rfl, rfl, rfl, rfl, rfl, rfl⟩
  have hbit (i : Nat) : (csrRead s 0x00C 4).getLsbD i = _ := getLsbD_statusWord s i
  refine ⟨hbit 0, hbit 1, hbit 2, hbit 3, ?_, hbit 8, hbit 9, ?_⟩ <;> ext i hi <;>
    rw [BitVec.getElem_extractLsb', hbit]
  · rw [Nat.add_sub_cancel_left, BitVec.getLsbD_eq_getElem hi]
    grind
  · grind

/-- Settles O15. -/
theorem statusWriteClearsDoneAndOvr : Obligations.StatusWriteClearsDoneAndOvr := fun _ _ => rfl

theorem ienWord_eq (s : State) : ienWord s = if s.doneIe then 1 else 0 := by
  unfold ienWord
  cases s.doneIe <;> rfl

/-- Settles O16. -/
theorem interruptLevel : Obligations.InterruptLevel := fun s _ => ⟨rfl, ienWord_eq s, by simp [irq]⟩

theorem statusWord_resetWith (p : Params) : statusWord (State.resetWith p) = 0 := by
  simp [statusWord, State.resetWith, ErrorCode.code]

/-- Settles O22: CMD, STATUS and IEN by their own lemmas, every other register by its field. -/
theorem resetRegisterValues : Obligations.ResetRegisterValues := by
  refine fun p => ⟨rfl, rfl, ?_, rfl, rfl⟩
  rw [List.forall_mem_cons, List.forall_mem_cons, List.forall_mem_cons]
  refine ⟨rfl, statusWord_resetWith p, ienWord_eq _, fun o ho => ?_⟩
  fin_cases ho <;> rfl

end Sys2Proof.Machine

/-! What a step can change of the argument CSRs, their latched copies and the progress counters (R37, R39, R44). -/

namespace Sys2Proof.Machine

/-- The core touches neither the argument CSRs nor their latched copies. -/
theorem args_of_coreStep {s t : State} (h : CoreStep s t) : t.csr = s.csr ∧ t.latched = s.latched := by
  cases h with
  | idle => exact ⟨rfl, rfl⟩
  | pass => rw [passStep_frame]; exact ⟨rfl, rfl⟩
  | error => exact ⟨rfl, rfl⟩
  | effect => rw [effectOf_frame]; exact ⟨rfl, rfl⟩
  | begins => exact ⟨rfl, rfl⟩

theorem args_eventAccepted (q : Sequencer) (s : State) :
    (eventAccepted q s).csr = s.csr ∧ (eventAccepted q s).latched = s.latched := by
  rcases eventAccepted_cases q s with ⟨-, e⟩ | ⟨-, e⟩ | ⟨-, -, q', e⟩ <;> rw [e] <;> exact ⟨rfl, rfl⟩

/-- A CSR write latches the arguments only as a command is accepted (R44, R305). -/
theorem latched_csrWrite (off : BitVec 12) (bytes : Nat) (v : Word) (s : State) :
    (csrWrite off bytes v s).latched = s.latched ∨ (s.busy = false ∧ off = 0x008#12 ∧ bytes = 4) := by
  rcases csrWrite_cases off bytes v s with ⟨ho, hb, e⟩ | ⟨-, -, e⟩ | ⟨-, -, e⟩ | e | e <;> rw [e]
  · cases hbusy : s.busy with
    | true => exact .inl (by rw [writeCmd, if_pos hbusy])
    | false => exact .inr ⟨rfl, ho, hb⟩
  all_goals exact .inl rfl

theorem counters_csrWrite (off : BitVec 12) (bytes : Nat) (v : Word) (s : State) :
    (csrWrite off bytes v s).blkCount = s.blkCount ∧ (csrWrite off bytes v s).mbCount = s.mbCount := by
  rcases csrWrite_cases off bytes v s with ⟨-, -, e⟩ | ⟨-, -, e⟩ | ⟨-, -, e⟩ | e | e <;> rw [e]
  · unfold writeCmd
    split <;> exact ⟨rfl, rfl⟩
  all_goals exact ⟨rfl, rfl⟩

/-- The core changes a counter only at the first step of an ENCODE that passes its checks, which clears both (R39). -/
theorem counters_of_coreStep {s t : State} (h : CoreStep s t) :
    (t.blkCount = s.blkCount ∧ t.mbCount = s.mbCount) ∨
      (t.blkCount = 0 ∧ t.mbCount = 0 ∧ s.busy = true ∧ s.seq = none ∧ decode (commandWord s) = .ok .encode ∧
        encodeCheck s = none) := by
  cases h with
  | idle => exact .inl ⟨rfl, rfl⟩
  | pass => rw [passStep_frame]; exact .inl ⟨rfl, rfl⟩
  | error => exact .inl ⟨rfl, rfl⟩
  | effect => rw [effectOf_frame]; exact .inl ⟨rfl, rfl⟩
  | begins hb hs hd hc => exact .inr ⟨rfl, rfl, hb, hs, hd, hc⟩

/-- Settles O19. -/
theorem argumentsChangeOnlyByTheHost : Obligations.ArgumentsChangeOnlyByTheHost := by
  intro s t h
  obtain ⟨rest, hkind⟩ := step_kind h
  cases hkind with
  | core _ hcore =>
    obtain ⟨hcsr, hlatched⟩ := args_of_coreStep hcore
    exact ⟨.inl hcsr, .inl hlatched⟩
  | csrWrite off bytes v rest' hm =>
    refine ⟨.inr (.inl ⟨off, bytes, v, rest', hm⟩), ?_⟩
    rcases latched_csrWrite off bytes v { s with moves := rest } with hl | ⟨hb, rfl, rfl⟩
    · exact .inl hl
    · exact .inr (.inl ⟨hb, v, rest', hm⟩)
  | accept q =>
    obtain ⟨hcsr, hlatched⟩ := args_eventAccepted q { s with moves := rest }
    exact ⟨.inl hcsr, .inl hlatched⟩
  | reset rest' hm => exact ⟨.inr (.inr ⟨rest', hm⟩), .inr (.inr ⟨rest', hm⟩)⟩
  | hostRead | memWrite | fail => exact ⟨.inl rfl, .inl rfl⟩

/-- An accepted event raises BLKCOUNT in phase BLOCKS alone, and MBCOUNT at e = 5 there (R39). -/
theorem counters_eventAccepted (q : Sequencer) (s : State) :
    (eventAccepted q s).blkCount = (if q.phase = .blocks then s.blkCount + 1 else s.blkCount) ∧
      (eventAccepted q s).mbCount = if q.phase = .blocks ∧ q.e = 5 then s.mbCount + 1 else s.mbCount := by
  rcases eventAccepted_cases q s with ⟨hp, e⟩ | ⟨hp, e⟩ | ⟨-, hp, q', e⟩ <;> rw [e] <;> simp [hp]

/-- Settles O55: the pass invariant says which event is offered, so a block event is offered in phase BLOCKS alone. -/
theorem countersCountAcceptedBlocks : Obligations.CountersCountAcceptedBlocks := by
  refine ⟨fun s q ev hpass hq hev => ?_, fun s t hpass h => ?_⟩
  · obtain ⟨hin, hout⟩ := passOk_offered_kind hpass hq hev
    obtain ⟨hblk, hmb⟩ := counters_eventAccepted q s
    refine ⟨eventAccepted q s, by simp [takeMove, sinkAnswer, hq, hev], ?_⟩
    rw [hblk, hmb]
    by_cases hp : q.phase = .blocks
    · obtain ⟨hkind, h5⟩ := hin hp
      exact ⟨by rw [if_pos hp, if_pos hkind], by simp only [hp, h5, true_and]⟩
    · have hkind := hout hp
      have hv : ¬ev.kind = 6#3 := fun h => hkind (.inr (.inr h))
      exact ⟨by rw [if_neg hp, if_neg hkind], by rw [if_neg fun h => hp h.1, if_neg hv]⟩
  · obtain ⟨rest, hkind⟩ := step_kind h
    cases hkind with
    | core hm hcore =>
      rcases counters_of_coreStep hcore with hsame | ⟨hblk, hmb, hb, hs, hd, hc⟩
      · exact .inl hsame
      · exact .inr (.inr (.inl ⟨hblk, hmb, hb, hs, hd, hc, hm⟩))
    | csrWrite off bytes v => exact .inl (counters_csrWrite off bytes v { s with moves := rest })
    | accept q ev rest' hm hq hev =>
      obtain ⟨hblk, hmb⟩ := counters_eventAccepted q { s with moves := rest }
      by_cases hp : q.phase = .blocks
      · obtain ⟨hkind, h5⟩ := (passOk_offered_kind hpass hq hev).1 hp
        refine .inr (.inl ⟨rest', q, ev, hm, hq, hev, hp, hkind, h5, ?_, ?_⟩)
        · rw [hblk, if_pos hp]
        · rw [hmb]; simp only [hp, true_and]
      · exact .inl ⟨by rw [hblk, if_neg hp], by rw [hmb, if_neg fun h => hp h.1]⟩
    | reset rest' hm => exact .inr (.inr (.inr ⟨rfl, rfl, rest', hm⟩))
    | hostRead | memWrite | fail => exact .inl ⟨rfl, rfl⟩

end Sys2Proof.Machine

/-! The host's accesses to data memory (R90, R93, R94): what a byte read while a command runs can be, and the step of
each access inside the space and outside it. -/

namespace Sys2Proof.Machine

/-- A byte that the core's next step may be writing is its old value or its new one (R94, R341). -/
theorem oldOrNew_cases (k : Config.FreeKind) (s : State) (a : Nat) :
    oldOrNew k s a = Memory.read s.mem a ∨ oldOrNew k s a = Memory.read (memoryAfter s) a := by
  unfold oldOrNew
  split
  · exact .inl rfl
  · exact .inr rfl

/-- A byte that the core's next step leaves unchanged is its old value, whatever the free choice. -/
theorem oldOrNew_of_read_eq (k : Config.FreeKind) {s : State} {a : Nat}
    (h : Memory.read (memoryAfter s) a = Memory.read s.mem a) : oldOrNew k s a = Memory.read s.mem a := by
  rcases oldOrNew_cases k s a with e | e
  · exact e
  · exact e.trans h

theorem memoryAfter_idle {s : State} (h : s.busy = false) : memoryAfter s = s.mem := by
  simp [memoryAfter, coreStep_idle h]

theorem hostByte_idle {s : State} (h : s.busy = false) (a : Nat) : hostByte s a = Memory.read s.mem a :=
  oldOrNew_of_read_eq .hostByte (by rw [memoryAfter_idle h])

theorem step_memRead {s : State} {a : Nat} (h : a < s.params.memSize) :
    step (withMove (.host (.memRead a)) s) = .next (hostReturns ((hostByte s a).setWidth 32) s) := if_pos h

theorem step_memWrite {s : State} {a : Nat} (h : a < s.params.memSize) (b : Byte) :
    step (withMove (.host (.memWrite a b)) s) = .next (hostWriteByte a b s) := if_pos h

theorem step_memRead_outside {s : State} {a : Nat} (h : s.params.memSize ≤ a) :
    step (withMove (.host (.memRead a)) s) = .fault (.hostAddressOutsideMemory a) := if_neg (Nat.not_lt.mpr h)

theorem step_memWrite_outside {s : State} {a : Nat} (h : s.params.memSize ≤ a) (b : Byte) :
    step (withMove (.host (.memWrite a b)) s) = .fault (.hostAddressOutsideMemory a) := if_neg (Nat.not_lt.mpr h)

/-- Settles O56: a read returns `hostByte`, which is old or new, and old when the block is idle; a write is one memory
write. -/
theorem hostDataAccess : Obligations.HostDataAccess := by
  refine fun s a b => ⟨fun ha => ⟨⟨_, step_memRead ha, rfl, ?_, fun hidle => ?_⟩, _, step_memWrite ha b, rfl, ?_⟩,
    fun ha => ⟨step_memRead_outside ha, step_memWrite_outside ha b⟩⟩
  · exact (oldOrNew_cases .hostByte s a).imp (congrArg (BitVec.setWidth 32)) (congrArg (BitVec.setWidth 32))
  · exact congrArg (BitVec.setWidth 32) (hostByte_idle hidle a)
  · exact Memory.read_write s.mem a b

end Sys2Proof.Machine

/-! The command word: its three fields, and which command each legal word stands for (R110 to R116). -/

namespace Sys2Proof

open Laws.EncodedFields (opcode operand)

@[simp] theorem opField_assemble (op a : Byte) : opField (assemble op a) = op :=
  (BitVec.extractLsb'_append_eq_of_add_le (by decide)).trans BitVec.extractLsb'_append_eq_right

@[simp] theorem aField_assemble (op a : Byte) : aField (assemble op a) = a :=
  (BitVec.extractLsb'_append_eq_of_add_le (by decide)).trans BitVec.extractLsb'_append_eq_left

@[simp] theorem rsvField_assemble (op a : Byte) : rsvField (assemble op a) = 0 := BitVec.extractLsb'_append_eq_left

/-- A word with RSV = 0 is made up again from OP and A. -/
theorem assemble_fields {w : Word} (h : rsvField w = 0) : assemble (opField w) (aField w) = w := by
  have hw : rsvField w ++ (aField w ++ opField w) = w := by
    rw [aField, opField, BitVec.extractLsb'_append_extractLsb'_eq_extractLsb' (by rfl)]
    exact BitVec.extractLsb'_append_extractLsb'
  rwa [h] at hw

@[simp] theorem decode_assemble (op a : Byte) : decode (assemble op a) = decodeOp op.toNat a.toNat := by
  simp [decode]

theorem encode_eq_assemble (i : Instr) :
    encode i = assemble (BitVec.ofNat 8 (opcode i)) (BitVec.ofNat 8 (operand i)) := by cases i <;> rfl

theorem opcode_lt (i : Instr) : opcode i < 256 := by cases i <;> simp [opcode]

/-- A command is well-formed exactly when its operand fits the A field (R114). -/
theorem wellFormed_iff {i : Instr} : i.WellFormed ↔ operand i < 256 := by
  cases i <;> simp [Instr.WellFormed, Instr.wellFormed, operand]

/-- OP and A name exactly the command whose opcode and operand they are (R112). -/
theorem decodeOp_eq_ok_iff {op a : Nat} {i : Instr} : decodeOp op a = .ok i ↔ op = opcode i ∧ a = operand i := by
  constructor
  · fun_cases decodeOp op a <;> intro h <;> cases h <;> exact ⟨rfl, rfl⟩
  · rintro ⟨rfl, rfl⟩
    cases i <;> rfl

/-- The OP and A values that name no command (R115). -/
theorem decodeOp_error_iff {op a : Nat} :
    (∃ e, decodeOp op a = .error e) ↔ op = 0 ∨ 10 ≤ op ∨ ((op = 2 ∨ op = 5) ∧ 2 ≤ a) ∨ (op = 6 ∧ 4 ≤ a) ∨
      ((op = 4 ∨ op = 7 ∨ op = 8 ∨ op = 9) ∧ a ≠ 0) := by
  fun_cases decodeOp op a <;> grind

theorem decode_eq_ok {w : Word} {i : Instr} (h : decode w = .ok i) :
    rsvField w = 0 ∧ (opField w).toNat = opcode i ∧ (aField w).toNat = operand i := by
  unfold decode at h
  split at h
  · next hr => exact ⟨hr, decodeOp_eq_ok_iff.mp h⟩
  · cases h

theorem decode_error_iff {w : Word} : (∃ e, decode w = .error e) ↔
    rsvField w ≠ 0 ∨ ∃ e, decodeOp (opField w).toNat (aField w).toNat = .error e := by
  unfold decode
  split <;> simp_all

/-- The bits from position `k` up are not all 0 exactly when the value reaches `2 ^ k`. -/
theorem extractLsb'_high_ne_zero_iff {k n : Nat} (a : BitVec (k + n)) : a.extractLsb' k n ≠ 0 ↔ 2 ^ k ≤ a.toNat := by
  have hdiv : a.toNat / 2 ^ k < 2 ^ n := Nat.div_lt_of_lt_mul (Nat.pow_add 2 k n ▸ a.isLt)
  rw [ne_eq, ← BitVec.toNat_inj, BitVec.extractLsb'_toNat, Nat.shiftRight_eq_div_pow, Nat.mod_eq_of_lt hdiv]
  simp [Nat.div_eq_zero_iff]

/-- Settles O1: the word of a command is assembled from its opcode and operand, which decode to the command, and a
well-formed operand is not truncated by the A field. -/
theorem decodeOfEncode : Obligations.DecodeOfEncode := by
  intro i hi
  rw [encode_eq_assemble, decode_assemble, decodeOp_eq_ok_iff, BitVec.toNat_ofNat, BitVec.toNat_ofNat]
  exact ⟨Nat.mod_eq_of_lt (opcode_lt i), Nat.mod_eq_of_lt (wellFormed_iff.mp hi)⟩

/-- Settles O2: a legal word has RSV = 0, and its OP and A are the opcode and operand of the command. -/
theorem encodeOfDecode : Obligations.EncodeOfDecode := by
  intro w i h
  obtain ⟨hrsv, hop, ha⟩ := decode_eq_ok h
  refine ⟨wellFormed_iff.mpr (ha ▸ (aField w).isLt), ?_⟩
  calc encode i
      = assemble (BitVec.ofNat 8 (opField w).toNat) (BitVec.ofNat 8 (aField w).toNat) := by
        rw [hop, ha, encode_eq_assemble]
    _ = assemble (opField w) (aField w) := by simp only [BitVec.ofNat_toNat, BitVec.setWidth_eq]
    _ = w := assemble_fields hrsv

/-- Settles O3: fourteen fixed words, each decoded by evaluation. -/
theorem assemblerWordsDecode : Obligations.AssemblerWordsDecode := by
  unfold Obligations.AssemblerWordsDecode
  decide

end Sys2Proof

/-! A command word accepted and run (R305, R306): illegal words, the host's CMD write, and `withFetchWord`. -/

namespace Sys2Proof.Machine

theorem genbasisCheck_eq_badArg {n : Nat} (h : n = 0 ∨ 8 < n) : genbasisCheck n = some .badArg := by
  have hn : n < 1 ∨ Config.kMax < n := h.imp_left Nat.lt_one_iff.mpr
  rw [genbasisCheck, firstError_cons, decide_eq_true hn, if_pos rfl]

theorem exec_genbasis_badArg {n : Nat} (h : n = 0 ∨ 8 < n) (s : State) : exec (.genbasis n) s = errorEnd .badArg s := by
  rw [exec_eq (by simp), checkOf, genbasisCheck_eq_badArg h, conclude_some]
  rfl

/-- Settles O4: the illegal words from the OP and A values that name no command, and the core's step of one. -/
theorem illegalWordsEndWithIllegalCmd : Obligations.IllegalWordsEndWithIllegalCmd := by
  refine ⟨fun w => ?_, fun s e hbusy hseq he => coreStep_illegal hbusy hseq he,
    fun n s hn => ⟨fun h256 => decodeOfEncode (.genbasis n) (decide_eq_true h256), exec_genbasis_badArg hn s⟩,
    fun a => decode_assemble 0x03 a⟩
  rw [decode_error_iff, decodeOp_error_iff, extractLsb'_high_ne_zero_iff (k := 1) (n := 7),
    extractLsb'_high_ne_zero_iff (k := 2) (n := 6)]
  simp only [ne_eq, ← BitVec.toNat_inj]
  tauto

theorem tableWord_toNat (w : Word) : tableWord 32 w.toNat = w := by
  rw [tableWord, Nat.mod_eq_of_lt w.isLt, BitVec.ofNat_toNat, BitVec.setWidth_eq]

/-- `withFetchWord` is an accepted CMD write with the core's step next (notes/assumptions/1.md). -/
theorem withFetchWord_toNat (w : Word) (s : State) : s.withFetchWord 32 w.toNat = withMove .core (accept w s) := by
  rw [State.withFetchWord, tableWord_toNat]
  rfl

/-- A CMD write to an idle block is accepted (R305). -/
theorem step_csrw_cmd_idle {s : State} (h : s.busy = false) (w : Word) :
    step (withMove (csrw 0x008 w) s) = .next (accept w s) := by
  have hcmd : csrWrite 0x008 4 w s = writeCmd w s := rfl
  rw [csrw, step_csrWrite, hcmd, writeCmd, h]
  rfl

/-- The core runs an accepted legal word on the accepted state (R306). -/
theorem coreStep_accept {w : Word} {i : Instr} (h : decode w = .ok i) (s : State) :
    coreStep (accept w s) = exec i (accept w s) :=
  coreStep_run (accept_busy w s) (accept_seq w s) (by rw [commandWord_accept, h])

/-- Settles O6: the write is accepted with the later moves kept, the accepted word decodes to the command, and
`withFetchWord` gives that accepted state. -/
theorem writtenCommandRuns : Obligations.WrittenCommandRuns := by
  intro s i hi
  have hrun := coreStep_accept (decodeOfEncode i hi) s
  refine ⟨fun hidle => step_csrw_cmd_idle (s := withMove .core s) hidle (encode i), hrun, ?_⟩
  rw [withFetchWord_toNat]
  exact hrun

end Sys2Proof.Machine

/-! What a command leaves unchanged (R113), and that none stops the machine (R307). -/

namespace Sys2Proof.Machine

theorem kernel_effectOf {i : Instr} (h : ∀ n, i ≠ .genbasis n) (s : State) :
    (effectOf i s).kernel = s.kernel ∧ (effectOf i s).korder = s.korder ∧ (effectOf i s).kvalid = s.kvalid := by
  cases i with
  | genbasis n => exact absurd rfl (h n)
  | _ => exact ⟨rfl, rfl, rfl⟩

theorem tables_effectOf {i : Instr} (h : i ≠ .qtbuild) (s : State) :
    (effectOf i s).qtLuma = s.qtLuma ∧ (effectOf i s).qtChroma = s.qtChroma ∧ (effectOf i s).qtzLuma = s.qtzLuma ∧
      (effectOf i s).qtzChroma = s.qtzChroma ∧ (effectOf i s).qvalid = s.qvalid := by
  cases i with
  | qtbuild => exact absurd rfl h
  | _ => exact ⟨rfl, rfl, rfl, rfl, rfl⟩

theorem result0_effectOf {i : Instr} (hq : ∀ b, i ≠ .qscale b) (he : i ≠ .extend) (s : State) :
    (effectOf i s).result0 = s.result0 := by
  cases i with
  | qscale b => exact absurd rfl (hq b)
  | extend => exact absurd rfl he
  | _ => rfl

theorem result1_effectOf {i : Instr} (h : i ≠ .extend) (s : State) : (effectOf i s).result1 = s.result1 := by
  cases i with
  | extend => exact absurd rfl h
  | _ => rfl

/-- Settles O13: an error end and a begun pass touch none of it; an effect, only what its command's row lists. -/
theorem commandsWriteOnlyTheirOwnState : Obligations.CommandsWriteOnlyTheirOwnState := by
  intro i s t h
  rcases exec_cases i s with ⟨c, -, e⟩ | ⟨-, -, e⟩ | ⟨rfl, -, e⟩ <;> rw [e] at h <;> cases h
  · simp
  · refine ⟨?_, (kernel_effectOf · s), fun hq _ => tables_effectOf hq s, fun hq he => result0_effectOf hq he s,
      (result1_effectOf · s), fun _ => ?_, effectOf_mem_of_no_buffer, fun _ => read_effectOf_outside⟩
    · rw [effectOf_frame]; simp
    · rw [effectOf_frame]; simp
  · simp

theorem exists_exec_eq_next (i : Instr) (s : State) : ∃ t, exec i s = .next t := by
  rcases exec_cases i s with ⟨_, _, e⟩ | ⟨_, _, e⟩ | ⟨_, _, e⟩ <;> exact ⟨_, e⟩

theorem exists_coreStep_eq_next (s : State) : ∃ t, coreStep s = .next t := by
  rcases coreStep_cases s with ⟨-, e⟩ | ⟨-, -, e⟩ | ⟨-, -, i, -, e⟩ | ⟨-, -, -, e⟩
  case inr.inr.inl => rw [e]; exact exists_exec_eq_next i s
  all_goals exact ⟨_, e⟩

/-- A host access answers a next state, or is to a data-memory address that does not exist (R80). -/
theorem hostAccess_cases (a : HostAccess) (s : State) :
    (∃ t, hostAccess a s = .next t) ∨
      ∃ addr, s.params.memSize ≤ addr ∧ hostAccess a s = .fault (.hostAddressOutsideMemory addr) ∧
        ((∃ b, a = .memWrite addr b) ∨ a = .memRead addr) := by
  cases a with
  | csrRead off bytes => exact .inl ⟨_, rfl⟩
  | csrWrite off bytes v => exact .inl ⟨_, rfl⟩
  | memRead addr =>
    rcases Nat.lt_or_ge addr s.params.memSize with hin | hout
    · exact .inl ⟨_, step_memRead hin⟩
    · exact .inr ⟨addr, hout, step_memRead_outside hout, .inr rfl⟩
  | memWrite addr b =>
    rcases Nat.lt_or_ge addr s.params.memSize with hin | hout
    · exact .inl ⟨_, step_memWrite hin b⟩
    · exact .inr ⟨addr, hout, step_memWrite_outside hout b, .inl ⟨b, rfl⟩⟩

/-- Settles O60: by the move the step takes; the core's step and reset always answer a next state. -/
theorem noCommandStopsTheMachine : Obligations.NoCommandStopsTheMachine := by
  refine ⟨exists_exec_eq_next, fun s => ?_⟩
  cases hm : s.moves with
  | nil => rw [step_nil hm]; exact .inl (exists_coreStep_eq_next s)
  | cons m rest =>
    rw [step_cons hm]
    cases m with
    | core => exact .inl (exists_coreStep_eq_next _)
    | reset => exact .inl ⟨_, rfl⟩
    | host a =>
      rcases hostAccess_cases a { s with moves := rest } with h | ⟨addr, hout, hfault, ⟨b, rfl⟩ | rfl⟩
      · exact .inl h
      · exact .inr (.inl ⟨addr, rest, hout, hfault, .inl ⟨b, rfl⟩⟩)
      · exact .inr (.inl ⟨addr, rest, hout, hfault, .inr rfl⟩)
    | sink x =>
      rcases sinkAnswer_cases x { s with moves := rest } with ⟨_, _, -, -, ⟨-, e⟩ | ⟨-, e⟩⟩ | ⟨hnone, e⟩
      · exact .inl ⟨_, e⟩
      · exact .inl ⟨_, e⟩
      · exact .inr (.inr ⟨x, rest, e, rfl, hnone⟩)

end Sys2Proof.Machine

/-! GENBASIS (spec/40_dct_basis.md R141, R143). -/

namespace Sys2Proof.Machine

/-- Every order from 1 to KMAX passes GENBASIS's check. -/
theorem genbasisCheck_eq_none {n : ℕ} (h1 : 1 ≤ n) (h8 : n ≤ 8) : genbasisCheck n = none := by
  have horder : ¬(n < 1 ∨ Config.kMax < n) := by unfold Config.kMax; omega
  rw [genbasisCheck, firstError_cons, decide_eq_false horder]
  rfl

/-- Settles O24: the check passes, and the effect is `buildKernel`, whose KERNEL is read entry by entry. -/
theorem genbasisStoresTheKernel : Obligations.GenbasisStoresTheKernel := by
  intro n s h1 h8
  have hexec : exec (.genbasis n) s = .next (complete (buildKernel n s)) := by
    rw [exec_eq (by simp), checkOf, genbasisCheck_eq_none h1 h8, conclude_none, effectOf]
  refine ⟨_, hexec, fun i hi j hj => kernelAt_kernelOf n hi hj, ?_, rfl, rfl⟩
  rw [complete_korder, buildKernel_korder, BitVec.toNat_ofNat]
  omega

end Sys2Proof.Machine

/-! Nearest in the reals (spec/40_dct_basis.md R142): how far apart binary64 data lie, and which datum is the nearest to a
real number. -/

namespace Sys2Proof.Machine.F64

/-- `x` is a binary64 datum and no other one is nearer to the real `r`. -/
def NearestReal (x : F64) (r : ℝ) : Prop :=
  x.valid ∧ ∀ z : F64, z.valid → |(x.val : ℝ) - r| ≤ |(z.val : ℝ) - r|

/-- A datum ± q · ulp E with q above the least normal significand is a whole unit away from every other datum. -/
theorem eq_or_ulp_le_abs_sub {neg : Bool} {q E : ℕ} (hq : 2 ^ 52 < q) {z : F64} (hz : z.valid) :
    z.val = sgn neg * (q * ulp E) ∨ ulp E ≤ |z.val - sgn neg * (q * ulp E)| := by
  have hu := ulp_pos E
  rw [abs_sub_sgn_mul]
  obtain ⟨j, hj⟩ | ⟨-, hsmall⟩ := valid_multiple_or_small hz E
  · obtain ⟨i, hi⟩ := exists_int_sgn_mul neg j
    have hiz : sgn neg * z.val = i * ulp E := by rw [hj, hi, mul_assoc]
    by_cases hiq : i = q
    · left; rw [← sgn_mul_sgn_mul neg z.val, hiz, hiq, Int.cast_natCast]
    · right
      have hgap : (1 : ℚ) ≤ |(i : ℚ) - q| := by exact_mod_cast Int.one_le_abs (sub_ne_zero.mpr hiq)
      rw [hiz, ← sub_mul, abs_mul, abs_of_pos hu]
      exact le_mul_of_one_le_left hu.le hgap
  · right
    have hσz : sgn neg * z.val ≤ |z.val| := by simpa [abs_mul] using le_abs_self (sgn neg * z.val)
    have hq' : ((2 ^ 52 : ℕ) + 1 : ℚ) * ulp E ≤ q * ulp E := by gcongr; exact_mod_cast hq
    rw [abs_sub_comm]
    exact le_trans (by linarith) (le_abs_self _)

/-- Within half a unit of `r`, a datum with a significand above the least normal one is the nearest. -/
theorem nearestReal_of_abs_sub_le {x : F64} {neg : Bool} {q E : ℕ} {r : ℝ} (hx : x.valid)
    (hval : x.val = sgn neg * (q * ulp E)) (hq : 2 ^ 52 < q) (hr : |(x.val : ℝ) - r| ≤ (ulp E : ℝ) / 2) :
    x.NearestReal r := by
  refine ⟨hx, fun z hz => ?_⟩
  rcases eq_or_ulp_le_abs_sub (neg := neg) (E := E) hq hz with h | h <;> rw [← hval] at h
  · rw [h]
  · have hgap : (ulp E : ℝ) ≤ |(z.val : ℝ) - (x.val : ℝ)| := by exact_mod_cast h
    have htri := abs_sub_le (z.val : ℝ) r (x.val : ℝ)
    rw [abs_sub_comm r] at htri
    linarith

/-- Half the distance from a normal datum to the nearest other one: the unit below a power of two is the smaller one. -/
def halfGap (m e : ℕ) : ℚ := ulp (if m = 2 ^ 52 then e - 1 else e) / 2

theorem halfGap_pos (m e : ℕ) : 0 < halfGap m e := half_pos (ulp_pos _)

theorem nearestReal_of_abs_sub_le_halfGap {neg : Bool} {m e : ℕ} {r : ℝ} (hx : (fin neg m e).valid) (hm : 2 ^ 52 ≤ m)
    (he : 1 ≤ e) (hr : |((fin neg m e).val : ℝ) - r| ≤ halfGap m e) : (fin neg m e).NearestReal r := by
  unfold halfGap at hr
  rw [Rat.cast_div, Rat.cast_ofNat] at hr
  split_ifs at hr with h
  · obtain ⟨E, rfl⟩ := Nat.exists_eq_add_of_le' he
    refine nearestReal_of_abs_sub_le (neg := neg) (q := 2 ^ 53) hx ?_ (by norm_num) hr
    rw [val_fin, h, ulp_succ, Nat.add_sub_cancel]; push_cast; ring
  · exact nearestReal_of_abs_sub_le hx (mul_assoc _ _ _) (lt_of_le_of_ne hm (Ne.symm h)) hr

/-- A finite datum is the nearest to its own value. -/
theorem nearestReal_val {x : F64} (hx : x.valid) : x.NearestReal (x.val : ℝ) :=
  ⟨hx, fun _ _ => by rw [sub_self, abs_zero]; exact abs_nonneg _⟩

end Sys2Proof.Machine.F64

/-! Rational values for the cosines of R140: the Taylor polynomial of the cosine, with its error, at an angle computed from
the 20 decimals of π that Mathlib proves. -/

namespace Sys2Proof.Machine

/-- The Taylor polynomial of the cosine with the first `k` even powers. -/
def cosSeries (x : ℚ) (k : ℕ) : ℚ := ∑ m ∈ Finset.range k, (-1) ^ m * x ^ (2 * m) / (2 * m).factorial

/-- Twenty decimals of π. -/
def piDecimals : ℚ := 314159265358979323846 / 10 ^ 20

/-- A rational value for the angle k·π / (2n) less its whole turns. -/
def angleApprox (n k : ℕ) : ℚ := (k % (4 * n) : ℕ) / (2 * n) * piDecimals

/-- A rational value for cos(k·π / (2n)). -/
def cosApprox (n k : ℕ) : ℚ := cosSeries (angleApprox n k) 24

/-- What `cosApprox` may be off by. -/
def cosError : ℚ := 3 / 10 ^ 20

theorem re_exp_series (x : ℝ) (k : ℕ) :
    (∑ m ∈ Finset.range (2 * k), (x * Complex.I) ^ m / (m.factorial : ℂ)).re =
      ∑ m ∈ Finset.range k, (-1) ^ m * x ^ (2 * m) / (2 * m).factorial := by
  induction k with
  | zero => simp
  | succ k ih =>
    have heven : ((x : ℂ) * Complex.I) ^ (2 * k) = (((-1) ^ k * x ^ (2 * k) : ℝ) : ℂ) := by
      rw [mul_pow, pow_mul Complex.I, Complex.I_sq]; push_cast; ring
    rw [show 2 * (k + 1) = 2 * k + 1 + 1 by ring, Finset.sum_range_succ, Finset.sum_range_succ, Finset.sum_range_succ,
      Complex.add_re, Complex.add_re, ih, pow_succ, heven, Complex.div_natCast_re, Complex.div_natCast_re, Complex.ofReal_re,
      Complex.re_ofReal_mul]
    simp

/-- The Taylor polynomial is off by at most twice the first term it leaves out: the real part of the series of exp(i·x). -/
theorem abs_cos_sub_cosSeries_le {x : ℚ} {k : ℕ} (hx : |(x : ℝ)| / (2 * k + 1) ≤ 1 / 2) :
    |Real.cos x - cosSeries x k| ≤ |(x : ℝ)| ^ (2 * k) / (2 * k).factorial * 2 := by
  have hnorm : ‖((x : ℝ) : ℂ) * Complex.I‖ = |(x : ℝ)| := by simp
  have hexp := Complex.exp_bound' (x := ((x : ℝ) : ℂ) * Complex.I) (n := 2 * k) (by rw [hnorm]; push_cast; exact hx)
  rw [hnorm] at hexp
  have hre := (Complex.abs_re_le_norm _).trans hexp
  rw [Complex.sub_re, Complex.exp_ofReal_mul_I_re, re_exp_series] at hre
  unfold cosSeries
  push_cast
  exact hre

theorem abs_pi_sub_piDecimals_le : |Real.pi - piDecimals| ≤ 1 / 10 ^ 20 := by
  have hlo := Real.pi_gt_d20
  have hhi := Real.pi_lt_d20
  unfold piDecimals
  push_cast
  rw [abs_le]
  constructor <;> linarith

section
variable {n : ℕ} (hn : 0 < n) (k : ℕ)
include hn

/-- The cosine of an angle is that of the angle less its whole turns, 4n units of π / (2n). -/
theorem cos_eq_cos_mod_turn : Real.cos (k * Real.pi / (2 * n)) = Real.cos ((k % (4 * n) : ℕ) / (2 * n) * Real.pi) := by
  have hk : (k : ℝ) = 4 * n * (k / (4 * n) : ℕ) + (k % (4 * n) : ℕ) := by
    exact_mod_cast (Nat.div_add_mod k (4 * n)).symm
  rw [← Real.cos_add_nat_mul_two_pi ((k % (4 * n) : ℕ) / (2 * n) * Real.pi) (k / (4 * n)), hk]
  congr 1
  field_simp
  ring

theorem mod_div_le_two : ((k % (4 * n) : ℕ) : ℝ) / (2 * n) ≤ 2 := by
  have hmod : k % (4 * n) ≤ 2 * (2 * n) := by have := Nat.mod_lt k (show 0 < 4 * n by omega); omega
  rw [div_le_iff₀ (by positivity)]
  exact_mod_cast hmod

theorem abs_angle_sub_angleApprox_le :
    |((k % (4 * n) : ℕ) / (2 * n) * Real.pi : ℝ) - angleApprox n k| ≤ 2 / 10 ^ 20 := by
  unfold angleApprox
  push_cast
  rw [← mul_sub, abs_mul, abs_of_nonneg (by positivity)]
  calc ((k % (4 * n) : ℕ) : ℝ) / (2 * n) * |Real.pi - piDecimals| ≤ 2 * (1 / 10 ^ 20) := by
        gcongr
        · exact mod_div_le_two hn k
        · exact abs_pi_sub_piDecimals_le
    _ = 2 / 10 ^ 20 := by ring

theorem abs_angleApprox_le : |(angleApprox n k : ℝ)| ≤ 6.3 := by
  unfold angleApprox
  push_cast
  rw [abs_mul, abs_of_nonneg (by positivity)]
  calc ((k % (4 * n) : ℕ) : ℝ) / (2 * n) * |(piDecimals : ℝ)| ≤ 2 * 3.15 := by
        gcongr
        · exact mod_div_le_two hn k
        · norm_num [piDecimals]
    _ = 6.3 := by norm_num

theorem abs_cos_angleApprox_sub_cosApprox_le : |Real.cos (angleApprox n k) - cosApprox n k| ≤ 1 / 10 ^ 20 := by
  have hangle := abs_angleApprox_le hn k
  calc |Real.cos (angleApprox n k) - cosApprox n k| ≤ |(angleApprox n k : ℝ)| ^ (2 * 24) / (2 * 24).factorial * 2 :=
        abs_cos_sub_cosSeries_le (by push_cast; linarith)
    _ ≤ 6.3 ^ (2 * 24) / (2 * 24).factorial * 2 := by gcongr
    _ ≤ 1 / 10 ^ 20 := by norm_num [Nat.factorial]

/-- Twice the error of π, for the angle is below two half turns, and that of the series. -/
theorem abs_cos_sub_cosApprox_le : |Real.cos (k * Real.pi / (2 * n)) - cosApprox n k| ≤ cosError := by
  rw [cos_eq_cos_mod_turn hn]
  calc |Real.cos ((k % (4 * n) : ℕ) / (2 * n) * Real.pi) - cosApprox n k|
      ≤ |Real.cos ((k % (4 * n) : ℕ) / (2 * n) * Real.pi) - Real.cos (angleApprox n k)| +
          |Real.cos (angleApprox n k) - cosApprox n k| := abs_sub_le _ _ _
    _ ≤ 2 / 10 ^ 20 + 1 / 10 ^ 20 := add_le_add
        ((Real.abs_cos_sub_cos_le _ _).trans (abs_angle_sub_angleApprox_le hn k)) (abs_cos_angleApprox_sub_cosApprox_le hn k)
    _ = cosError := by norm_num [cosError]

end

end Sys2Proof.Machine

/-! The stored kernels against the formula of R140: one check per entry on rational bounds, and the exact zeros of R142. -/

namespace Sys2Proof.Machine

open F64 (sgn ulp halfGap)

/-- The numerator under the root of R140: 1 in row 0 and 2 in the others. -/
def rowFactor (i : ℕ) : ℕ := if i = 0 then 1 else 2

/-- The real number of R140 that entry (i, j) of the order-`n` kernel stands for; in row 0 the cosine is 1. -/
noncomputable def basis (n i j : ℕ) : ℝ :=
  Real.sqrt (rowFactor i / n) * Real.cos (((2 * j + 1) * i : ℕ) * Real.pi / (2 * n))

/-- Every cosine within `cosError` of `c` gives R140's number a square between those of `v − h` and `v + h`. -/
abbrev Brackets (n i : ℕ) (v h c : ℚ) : Prop :=
  cosError ≤ c ∧ (v - h) ^ 2 * n ≤ rowFactor i * (c - cosError) ^ 2 ∧
    rowFactor i * (c + cosError) ^ 2 ≤ (v + h) ^ 2 * n

/-- The entry is a normal datum, and R140's number with the entry's sign taken off is within half its gap. -/
def entryCheck (n i j : ℕ) : Bool :=
  match F64.ofBits (kval n i j) with
  | .fin neg m e =>
    decide (2 ^ 52 ≤ m ∧ m < 2 ^ 53 ∧ 1 ≤ e ∧ e ≤ 2045 ∧
      Brackets n i (m * ulp e) (halfGap m e) (sgn neg * cosApprox n ((2 * j + 1) * i)))
  | _ => false

theorem basis_zero (n j : ℕ) : basis n 0 j = Real.sqrt (1 / n) := by simp [basis, rowFactor]

theorem basis_of_ne_zero (n j : ℕ) {i : ℕ} (hi : i ≠ 0) :
    basis n i j = Real.sqrt (2 / n) * Real.cos ((2 * j + 1) * i * Real.pi / (2 * n)) := by
  simp [basis, rowFactor, hi]

/-- At an odd multiple of a quarter turn the cosine is 0. -/
theorem basis_eq_zero {n i j k : ℕ} (hn : 0 < n) (h : (2 * j + 1) * i = (2 * k + 1) * n) : basis n i j = 0 := by
  rw [basis, h, mul_eq_zero]
  refine .inr (Real.cos_eq_zero_iff.mpr ⟨k, ?_⟩)
  push_cast
  field_simp

/-- A product of a root and a cosine lies between the bounds whose squares bound its square. -/
theorem abs_sub_sqrt_mul_le {v h c C ε a N : ℝ} (hN : 0 < N) (ha : 0 ≤ a) (hvh : 0 ≤ v + h) (hC : |C - c| ≤ ε) (hc : ε ≤ c)
    (hlow : (v - h) ^ 2 * N ≤ a * (c - ε) ^ 2) (hhigh : a * (c + ε) ^ 2 ≤ (v + h) ^ 2 * N) :
    |v - Real.sqrt (a / N) * C| ≤ h := by
  obtain ⟨hClow, hChigh⟩ := abs_le.mp hC
  have hC0 : 0 ≤ C := by linarith
  have hsq : (Real.sqrt (a / N) * C) ^ 2 = a * C ^ 2 / N := by
    rw [mul_pow, Real.sq_sqrt (by positivity)]; ring
  have hlow' : (v - h) ^ 2 ≤ (Real.sqrt (a / N) * C) ^ 2 := by
    rw [hsq, le_div_iff₀ hN]
    exact hlow.trans (by gcongr; linarith)
  have hhigh' : (Real.sqrt (a / N) * C) ^ 2 ≤ (v + h) ^ 2 := by
    rw [hsq, div_le_iff₀ hN]
    exact le_trans (by gcongr; linarith) hhigh
  have hle := le_of_abs_le (abs_le_of_sq_le_sq hlow' (by positivity))
  have hge := le_of_abs_le (abs_le_of_sq_le_sq hhigh' hvh)
  exact abs_le.mpr ⟨by linarith, by linarith⟩

theorem abs_sub_basis_le {n i j : ℕ} {neg : Bool} {v h : ℚ} (hn : 0 < n) (hvh : 0 ≤ v + h)
    (hb : Brackets n i v h (sgn neg * cosApprox n ((2 * j + 1) * i))) : |((sgn neg * v : ℚ) : ℝ) - basis n i j| ≤ h := by
  obtain ⟨hc, hlow, hhigh⟩ := hb
  have hs : (sgn neg : ℝ) * sgn neg = 1 := by exact_mod_cast F64.sgn_mul_self neg
  have habs : |(sgn neg : ℝ)| = 1 := by exact_mod_cast F64.abs_sgn neg
  have hcos := abs_cos_sub_cosApprox_le hn ((2 * j + 1) * i)
  unfold basis
  generalize Real.cos (((2 * j + 1) * i : ℕ) * Real.pi / (2 * n)) = C at *
  generalize cosApprox n ((2 * j + 1) * i) = c at *
  have hC : |sgn neg * C - ((sgn neg * c : ℚ) : ℝ)| ≤ (cosError : ℝ) := by
    rwa [Rat.cast_mul, ← mul_sub, abs_mul, habs, one_mul]
  calc |((sgn neg * v : ℚ) : ℝ) - Real.sqrt (rowFactor i / n) * C|
      = |sgn neg * (v - Real.sqrt (rowFactor i / n) * (sgn neg * C))| := by
        congr 1; push_cast; linear_combination Real.sqrt (rowFactor i / n) * C * hs
    _ = |v - Real.sqrt (rowFactor i / n) * (sgn neg * C)| := by rw [abs_mul, habs, one_mul]
    _ ≤ h := abs_sub_sqrt_mul_le (by exact_mod_cast hn) (Nat.cast_nonneg _) (by exact_mod_cast hvh) hC (by exact_mod_cast hc)
        (by exact_mod_cast hlow) (by exact_mod_cast hhigh)

/-- An entry that passes the check is the datum nearest to R140's number. -/
theorem nearestReal_of_entryCheck {n i j : ℕ} (hn : 0 < n) (h : entryCheck n i j = true) :
    (F64.ofBits (kval n i j)).NearestReal (basis n i j) := by
  unfold entryCheck at h
  split at h
  next neg m e hx =>
    obtain ⟨hm, hm', he, he', hb⟩ := of_decide_eq_true h
    have hvh : 0 ≤ (m : ℚ) * ulp e + halfGap m e :=
      add_nonneg (mul_nonneg (Nat.cast_nonneg _) (F64.ulp_pos e).le) (F64.halfGap_pos m e).le
    rw [hx]
    refine F64.nearestReal_of_abs_sub_le_halfGap ⟨hm', .inl hm, he'⟩ hm he ?_
    rw [F64.val_fin, mul_assoc]
    exact abs_sub_basis_le hn hvh hb
  next => cases h

/-- The table's entries, one by one: those that are not +0.0 pass the check. -/
theorem entryCheck_of_ne_zero : ∀ n < 9, ∀ i < n, ∀ j < n, kval n i j ≠ 0#64 → entryCheck n i j = true := by
  decide +kernel

/-- The table's zeros, one by one. -/
theorem kval_eq_zero_iff_mod :
    ∀ n < 9, ∀ i < n, ∀ j < n, kval n i j = 0#64 ↔ 1 ≤ i ∧ (2 * j + 1) * i % (2 * n) = n := by
  decide +kernel

theorem exists_odd_multiple_iff {n : ℕ} (hn : 0 < n) (a : ℕ) : (∃ k, a = (2 * k + 1) * n) ↔ a % (2 * n) = n := by
  constructor
  · rintro ⟨k, rfl⟩
    rw [show (2 * k + 1) * n = n + 2 * n * k by ring, Nat.add_mul_mod_self_left]
    exact Nat.mod_eq_of_lt (by omega)
  · intro h
    refine ⟨a / (2 * n), ?_⟩
    have := Nat.div_add_mod a (2 * n)
    rw [h] at this
    linarith

theorem kval_eq_zero_iff {n i j : ℕ} (hn : n ≤ 8) (hi : i < n) (hj : j < n) :
    kval n i j = 0#64 ↔ 1 ≤ i ∧ ∃ k, (2 * j + 1) * i = (2 * k + 1) * n := by
  rw [exists_odd_multiple_iff (by omega), kval_eq_zero_iff_mod n (by omega) i hi j hj]

/-- Every stored entry is the datum nearest to R140's number: exactly at a zero, and by the check elsewhere. -/
theorem kval_nearestReal {n i j : ℕ} (hn : n ≤ 8) (hi : i < n) (hj : j < n) :
    (F64.ofBits (kval n i j)).NearestReal (basis n i j) := by
  by_cases h : kval n i j = 0#64
  · obtain ⟨-, k, hk⟩ := (kval_eq_zero_iff hn hi hj).mp h
    have hzero : F64.ofBits 0#64 = F64.zero := by decide
    have hval := F64.nearestReal_val (F64.valid_zero false)
    rw [F64.val_zero, Rat.cast_zero] at hval
    rwa [h, hzero, F64.zero, basis_eq_zero (by omega) hk]
  · exact nearestReal_of_entryCheck (by omega) (entryCheck_of_ne_zero n (by omega) i hi j hj h)

/-- Settles O25: an entry of row 0 is the nearest datum as every entry is, and the zeros are those of the table. -/
theorem kernelRowZeroAndExactZeros : Obligations.KernelRowZeroAndExactZeros := by
  intro n _ hn
  refine ⟨fun j hj => ?_, fun i hi j hj => kval_eq_zero_iff hn hi hj⟩
  rw [← basis_zero n j]
  exact kval_nearestReal hn (by omega) hj

/-- Settles O26: `basis` is the formula of R140, and every stored entry is the datum nearest to it. -/
theorem kernelsAreCorrectlyRounded : Obligations.KernelsAreCorrectlyRounded := by
  intro n _ hn i hi j hj
  split_ifs with h
  · subst h
    rw [← basis_zero n j]
    exact kval_nearestReal hn hi hj
  · rw [← basis_of_ne_zero n j h]
    exact kval_nearestReal hn hi hj

end Sys2Proof.Machine

/-! `floor` and `round64` (spec/41_block_transform.md R163): `floor` is exact, and x + 0.5 never overflows. -/

namespace Sys2Proof.Machine.F64

/-- The floor of a negative quotient, by a division that rounds up. -/
theorem floor_neg_natCast_div (m : ℕ) {d : ℕ} (hd : 0 < d) : ⌊-((m : ℚ) / d)⌋ = -(((m + (d - 1)) / d : ℕ) : ℤ) := by
  have hdiv := Nat.div_add_mod (m + (d - 1)) d
  have hmod := Nat.mod_lt (m + (d - 1)) hd
  generalize (m + (d - 1)) / d = k at *
  have hle : (m : ℚ) ≤ k * d := by rw [mul_comm]; exact_mod_cast (by omega : m ≤ d * k)
  have hlt : (k * d : ℚ) < m + d := by rw [mul_comm]; exact_mod_cast (by omega : d * k < m + d)
  have hd' : (0 : ℚ) < d := by exact_mod_cast hd
  have hup : (m : ℚ) / d ≤ k := (div_le_iff₀ hd').mpr hle
  have hlow : (k : ℚ) < m / d + 1 := by rwa [div_add_one hd'.ne', lt_div_iff₀ hd']
  rw [Int.floor_eq_iff]
  push_cast
  exact ⟨by linarith, by linarith⟩

theorem val_fin_eq_div (neg : Bool) (m : ℕ) {e : ℕ} (he : e ≤ 1074) :
    (fin neg m e).val = sgn neg * ((m : ℚ) / (2 ^ (1074 - e) : ℕ)) := by
  have hpow : (2 : ℚ) ^ ((e : ℤ) - 1074) = ((2 ^ (1074 - e) : ℕ) : ℚ)⁻¹ := by
    rw [Nat.cast_pow, Nat.cast_ofNat, ← zpow_natCast, ← zpow_neg, Nat.cast_sub he, Nat.cast_ofNat, neg_sub]
  rw [val_fin, ulp, hpow, mul_assoc, div_eq_mul_inv]

theorem ulp_1074 : ulp 1074 = 1 := by rw [ulp, Nat.cast_ofNat, sub_self, zpow_zero]

theorem val_fin_eq_natCast (neg : Bool) (m : ℕ) {e : ℕ} (he : 1074 ≤ e) :
    (fin neg m e).val = sgn neg * (m * 2 ^ (e - 1074) : ℕ) := by
  rw [val_fin_aligned neg m he, ulp_1074, mul_one]

/-- `floor` is exact on every finite datum. -/
theorem floor_fin (neg : Bool) (m e : ℕ) : floor (fin neg m e) = ⌊(fin neg m e).val⌋ := by
  simp only [floor]
  split_ifs with hm he hneg hneg
  · subst hm
    rw [val_zero, Int.floor_zero]
  · rw [val_fin_eq_natCast neg m he, hneg, sgn, if_pos rfl, neg_one_mul, Int.floor_neg, Int.ceil_natCast]
  · rw [val_fin_eq_natCast neg m he, sgn, if_neg hneg, one_mul, Int.floor_natCast]
  · rw [val_fin_eq_div neg m (by omega), hneg, sgn, if_pos rfl, neg_one_mul, floor_neg_natCast_div m (by positivity)]
  · rw [val_fin_eq_div neg m (by omega), sgn, if_neg hneg, one_mul, Rat.floor_natCast_div_natCast]
    rfl

theorem floor_of_valid {x : F64} (hx : x.valid) : floor x = ⌊x.val⌋ := by
  match x, hx with
  | .fin neg m e, _ => exact floor_fin neg m e

/-! ### No overflow -/

/-- Half a unit above the greatest datum: what is smaller in magnitude does not round to an infinity. -/
def overflowBound : ℚ := (2 ^ 53 - 1 / 2) * ulp 2045

/-- The exact significand at the chosen position stands for what `round` rounds. -/
theorem abs_signedVal_eq_mul_ulp (neg : Bool) {m e bias E : ℕ} (hb : 1074 ≤ bias)
    (hpos : ulpPos m e bias = E + (bias - 1074)) :
    |signedVal neg m e bias| = m * 2 ^ ((e : ℤ) - ulpPos m e bias) * ulp E := by
  rw [abs_signedVal, ulp, mul_assoc, ← zpow_add₀ two_ne_zero,
    show (e : ℤ) - ulpPos m e bias + (E - 1074) = e - bias by omega]

theorem exponent_lt_of_mul_ulp_lt {a b : ℚ} {E E' : ℕ} (ha : b ≤ a) (hb : 0 ≤ b) (hlt : a * ulp E < b * ulp E') :
    E < E' := by
  by_contra! h
  have := mul_le_mul ha (ulp_mono h) (ulp_pos E').le (hb.trans ha)
  exact absurd hlt (not_lt.mpr this)

/-- `round` gives a finite datum for what is below the overflow bound. -/
theorem exists_round_eq_fin (neg : Bool) {m e bias : ℕ} (hm : m ≠ 0) (hb : 1074 ≤ bias)
    (hlt : |signedVal neg m e bias| < overflowBound) : ∃ m' e', round neg m e bias = fin neg m' e' := by
  obtain ⟨E, hpos⟩ : ∃ E, ulpPos m e bias = E + (bias - 1074) := Nat.exists_eq_add_of_le' (le_max_right _ _)
  rw [abs_signedVal_eq_mul_ulp neg hb hpos, overflowBound] at hlt
  have hE : E ≤ 2045 := by
    by_cases h0 : E = 0
    · omega
    · have hnorm := le_exactSignificand (e := e) (bias := bias) hm (by omega)
      refine Nat.le_of_lt_add_one (exponent_lt_of_mul_ulp_lt hnorm (by positivity) (hlt.trans_le ?_))
      rw [ulp_succ 2045, ← mul_assoc]
      exact mul_le_mul_of_nonneg_right (by norm_num) (ulp_pos _).le
  have hcarry (h : significandAt m e (ulpPos m e bias) = 2 ^ 53) : E < 2045 := by
    have hhalf := (abs_le.mp (significandAt_roundsTo m e (ulpPos m e bias)).1).2
    rw [h] at hhalf
    push_cast at hhalf
    exact exponent_lt_of_mul_ulp_lt (by linarith only [hhalf]) (by norm_num) hlt
  rw [round_eq_carried neg hpos hE hcarry, carried]
  split_ifs <;> exact ⟨_, _, rfl⟩

/-- The sum of two finite data is zero or one rounding of its exact value. -/
theorem addAligned_cases (n n' : Bool) {m m' : ℕ} (e e' : ℕ) (hm : m ≠ 0) :
    addAligned n m e n' m' e' = zero ∨ ∃ neg k, k ≠ 0 ∧ addAligned n m e n' m' e' = round neg k (min e e') 1074 ∧
      (fin n m e).val + (fin n' m' e').val = (fin neg k (min e e')).val := by
  have hx : m * 2 ^ (e - min e e') ≠ 0 := by positivity
  rw [val_fin_aligned n m (min_le_left e e'), val_fin_aligned n' m' (min_le_right e e'), ← add_mul]
  unfold addAligned
  dsimp only
  generalize m * 2 ^ (e - min e e') = x at *
  generalize m' * 2 ^ (e' - min e e') = y at *
  split_ifs with hn hxy hlt
  · refine .inr ⟨n, x + y, by omega, rfl, ?_⟩
    rw [val_fin, hn]; push_cast; ring
  · exact .inl rfl
  · refine .inr ⟨n', y - x, by omega, rfl, ?_⟩
    rw [val_fin, sgn_eq_neg_of_ne hn, Nat.cast_sub hlt.le]; ring
  · refine .inr ⟨n, x - y, by omega, rfl, ?_⟩
    rw [val_fin, sgn_eq_neg_of_ne (Ne.symm hn), Nat.cast_sub (not_lt.mp hlt)]; ring

/-- `add` of finite data gives a finite datum when the exact sum is below the overflow bound. -/
theorem exists_add_eq_fin {x y : F64} (hx : x.valid) (hy : y.valid) (hlt : |x.val + y.val| < overflowBound) :
    ∃ neg m e, add x y = fin neg m e := by
  match x, y, hx, hy with
  | .fin n m e, .fin n' m' e', _, _ =>
    simp only [add]
    split_ifs with hm hm' hm'
    · exact ⟨_, _, _, rfl⟩
    · exact ⟨_, _, _, rfl⟩
    · exact ⟨_, _, _, rfl⟩
    · rcases addAligned_cases n n' e e' hm (m' := m') with h | ⟨neg, k, hk, h, hsum⟩ <;> rw [h]
      · exact ⟨_, _, _, rfl⟩
      · rw [hsum, ← signedVal_eq_val] at hlt
        exact ⟨neg, exists_round_eq_fin neg hk le_rfl hlt⟩

/-- Every finite datum is at most the greatest one. -/
theorem abs_val_le_greatest {x : F64} (hx : x.valid) : |x.val| ≤ (2 ^ 53 - 1) * ulp 2045 := by
  match x, hx with
  | .fin n m e, ⟨hm, _, he⟩ =>
    have hm' : (m : ℚ) ≤ 2 ^ 53 - 1 := by
      rw [le_sub_iff_add_le]
      exact_mod_cast Nat.succ_le_of_lt hm
    calc |(fin n m e).val| = m * ulp e := abs_signedVal n m e 1074
      _ ≤ (2 ^ 53 - 1) * ulp 2045 := mul_le_mul hm' (ulp_mono he) (ulp_pos e).le (by norm_num)

theorem half_valid : half.valid := ⟨by decide, .inl le_rfl, by decide⟩

theorem val_half : half.val = 1 / 2 := by
  rw [half, val_fin_eq_div _ _ (by decide)]
  norm_num [sgn]

/-- x + 0.5 does not overflow: 0.5 is less than half a unit of the greatest datum. -/
theorem exists_add_half_eq_fin {x : F64} (hx : x.valid) : ∃ neg m e, add x half = fin neg m e := by
  have hulp : 1 < ulp 2045 := ulp_1074 ▸ zpow_lt_zpow_right₀ one_lt_two (by norm_num)
  have hhalf : |half.val| = 1 / 2 := by rw [val_half, abs_of_pos one_half_pos]
  have hsum := abs_add_le x.val half.val
  have hmax := abs_val_le_greatest hx
  refine exists_add_eq_fin hx half_valid (hsum.trans_lt ?_)
  rw [overflowBound, hhalf]
  linarith

end Sys2Proof.Machine.F64

namespace Sys2Proof.Machine

theorem round64_eq_floor {x : F64} (hx : x.valid) : round64 x = ⌊(F64.add x F64.half).val⌋ := by
  obtain ⟨neg, m, e, h⟩ := F64.exists_add_half_eq_fin hx
  rw [round64, h, F64.floor_fin]

/-- Settles O28: both floors are of finite data; the examples are evaluated. -/
theorem roundingOfTransformOutputs : Obligations.RoundingOfTransformOutputs :=
  ⟨fun _ hx => ⟨F64.floor_of_valid hx, round64_eq_floor hx⟩, by decide, by decide, by decide⟩

end Sys2Proof.Machine

/-! How far one rounding of the transform can be off (spec/41_block_transform.md R165): every result met is at most 2^11
in magnitude, and there the data are no farther apart than 2^-41. -/

namespace Sys2Proof.Machine.F64

theorem sgn_mul_natAbs (j : ℤ) : sgn (decide (j < 0)) * (j.natAbs : ℚ) = j := by
  rw [Nat.cast_natAbs]
  by_cases h : j < 0
  · rw [decide_eq_true h, abs_of_neg h, sgn, if_pos rfl]; push_cast; ring
  · rw [decide_eq_false h, abs_of_nonneg (not_lt.mp h), sgn]; simp

/-- A multiple of the unit `ulp E` with fewer than 54 bits is a datum: shifted up until its significand is normal. -/
theorem exists_valid_val_eq {j : ℤ} {E : ℕ} (hj : j.natAbs < 2 ^ 53) (hlo : 52 ≤ E) (hhi : E ≤ 2045) :
    ∃ z : F64, z.valid ∧ z.val = j * ulp E := by
  rw [← sgn_mul_natAbs j]
  generalize j.natAbs = m at *
  by_cases h0 : m = 0
  · exact ⟨fin false 0 0, valid_zero _, by rw [val_zero, h0]; simp⟩
  have hlog : Nat.log2 m ≤ 52 := Nat.lt_succ_iff.mp ((Nat.log2_lt h0).mpr hj)
  obtain ⟨k, hk⟩ := Nat.exists_eq_add_of_le hlog
  obtain ⟨e, rfl⟩ := Nat.exists_eq_add_of_le' (show k ≤ E by omega)
  refine ⟨fin (decide (j < 0)) (m * 2 ^ k) e, ⟨?_, .inl ?_, by omega⟩, ?_⟩
  · calc m * 2 ^ k < 2 ^ (Nat.log2 m + 1) * 2 ^ k := Nat.mul_lt_mul_of_pos_right Nat.lt_log2_self (by positivity)
      _ = 2 ^ 53 := by rw [← pow_add]; congr 1; omega
  · calc 2 ^ 52 = 2 ^ Nat.log2 m * 2 ^ k := by rw [← pow_add, ← hk]
      _ ≤ m * 2 ^ k := Nat.mul_le_mul_right _ (Nat.log2_self_le h0)
  · rw [val_fin, ulp_add]; push_cast; ring

/-- The value of a datum rounds to itself. -/
theorem val_eq_of_nearest {x z : F64} (hz : z.valid) (h : x.nearest z.val) : x.val = z.val := by
  have hle := (h.2 z hz).1
  rw [sub_self, abs_zero] at hle
  exact sub_eq_zero.mp (abs_nonpos_iff.mp hle)

theorem abs_le_two_pow_1023 {r : ℚ} (hr : |r| ≤ 2 ^ 53) : |r| ≤ 2 ^ 1023 :=
  hr.trans (pow_le_pow_right₀ one_le_two (by decide))

/-- The conversion of an integer below 2^53 is exact. -/
theorem ofInt_exact {j : ℤ} (hj : j.natAbs < 2 ^ 53) : (ofInt j).valid ∧ (ofInt j).val = j := by
  by_cases h0 : j = 0
  · subst h0
    exact ⟨valid_zero _, by simp [ofInt, zero]⟩
  have hval : (j : ℚ) = (fin (decide (j < 0)) j.natAbs 1074).val := by rw [val_fin, ulp_1074, mul_one, sgn_mul_natAbs]
  have habs : |(j : ℚ)| ≤ 2 ^ 53 := by rw [← Int.cast_abs, ← Nat.cast_natAbs]; exact_mod_cast hj.le
  obtain ⟨z, hz, hzj⟩ := exists_valid_val_eq (E := 1074) hj (by decide) (by decide)
  rw [ulp_1074, mul_one] at hzj
  have hnear := round_nearest_of_eq (abs_le_two_pow_1023 habs) (Int.natAbs_ne_zero.mpr h0) hval
  rw [ofInt, if_neg h0]
  rw [← hzj] at hnear ⊢
  exact ⟨hnear.1, val_eq_of_nearest hz hnear⟩

/-- What one rounding may be off by. -/
def roundError : ℚ := 1 / 2 ^ 42

theorem abs_sub_le_of_nearest {x : F64} {r : ℚ} (h : x.nearest r) (hr : |r| ≤ 2 ^ 11) : |x.val - r| ≤ roundError := by
  obtain ⟨j, hround⟩ : ∃ j : ℤ, |r * 2 ^ 41 - j| ≤ 1 / 2 := ⟨_, abs_sub_round _⟩
  obtain ⟨hlo, hhi⟩ := abs_le.mp hr
  obtain ⟨hlo', hhi'⟩ := abs_le.mp hround
  have hj : j.natAbs < 2 ^ 53 := by
    have : |(j : ℚ)| < 2 ^ 53 := abs_lt.mpr ⟨by linarith, by linarith⟩
    rw [← Int.cast_abs, ← Nat.cast_natAbs] at this
    exact_mod_cast this
  have hulp : ulp 1033 = 1 / 2 ^ 41 := by norm_num [ulp]
  obtain ⟨z, hz, hzj⟩ := exists_valid_val_eq (E := 1033) hj (by decide) (by decide)
  calc |x.val - r| ≤ |z.val - r| := (h.2 z hz).1
    _ = |r * 2 ^ 41 - j| / 2 ^ 41 := by
      rw [hzj, hulp, show (j : ℚ) * (1 / 2 ^ 41) - r = -(r * 2 ^ 41 - j) / 2 ^ 41 by ring, abs_div, abs_neg,
        abs_of_pos (by positivity : (0 : ℚ) < 2 ^ 41)]
    _ ≤ 1 / 2 / 2 ^ 41 := by gcongr
    _ = roundError := by norm_num [roundError]

theorem mul_near {x y : F64} (hx : x.valid) (hy : y.valid) (hr : |x.val * y.val| ≤ 2 ^ 11) :
    (mul x y).valid ∧ |(mul x y).val - x.val * y.val| ≤ roundError := by
  have hnear := (addAndMulRoundToNearestEven x y hx hy).2 (abs_le_two_pow_1023 (hr.trans (by norm_num)))
  exact ⟨hnear.1, abs_sub_le_of_nearest hnear hr⟩

theorem add_near {x y : F64} (hx : x.valid) (hy : y.valid) (hr : |x.val + y.val| ≤ 2 ^ 11) :
    (add x y).valid ∧ |(add x y).val - (x.val + y.val)| ≤ roundError := by
  have hnear := (addAndMulRoundToNearestEven x y hx hy).1 (abs_le_two_pow_1023 (hr.trans (by norm_num)))
  exact ⟨hnear.1, abs_sub_le_of_nearest hnear hr⟩

end Sys2Proof.Machine.F64

/-! The error of the transform (spec/41_block_transform.md R164, R165, R167): each pass is a sum of products close to the
exact one, so the value before the last rounding lies close to the exact product K · B · Kᵀ of the stored kernel. -/

namespace Sys2Proof.Machine

open F64 (roundError)

theorem dot_succ (n : ℕ) (x y : ℕ → F64) : dot (n + 1) x y = F64.add (dot n x y) (F64.mul (x n) (y n)) := by
  simp [dot, List.range_succ]

theorem F64.mul_swap (x y : F64) : F64.mul x y = F64.mul y x := by
  cases x <;> cases y <;> simp [F64.mul, bne_comm, Nat.mul_comm, Nat.add_comm, or_comm]

theorem dot_comm (n : ℕ) (x y : ℕ → F64) : dot n x y = dot n y x := by
  simp only [dot, fun k => F64.mul_swap (x k) (y k)]

/-- Two roundings a term: the product's and the sum's. -/
theorem dot_near {n : ℕ} {x y : ℕ → F64} (hx : ∀ k < n, (x k).valid) (hy : ∀ k < n, (y k).valid)
    (hsum : ∑ k ∈ Finset.range n, |(x k).val * (y k).val| + 2 * n * roundError ≤ 2 ^ 11) :
    (dot n x y).valid ∧ |(dot n x y).val - ∑ k ∈ Finset.range n, (x k).val * (y k).val| ≤ 2 * n * roundError := by
  induction n with
  | zero => exact ⟨F64.valid_zero _, by simp [dot, F64.zero]⟩
  | succ n ih =>
    have hρ : 0 < roundError := by norm_num [roundError]
    have hn : 0 ≤ n * roundError := by positivity
    rw [Finset.sum_range_succ] at hsum ⊢
    rw [Nat.cast_succ] at hsum ⊢
    have hpre : |∑ k ∈ Finset.range n, (x k).val * (y k).val| ≤ ∑ k ∈ Finset.range n, |(x k).val * (y k).val| :=
      Finset.abs_sum_le_sum_abs _ _
    have hpre0 := (abs_nonneg _).trans hpre
    have hterm0 := abs_nonneg ((x n).val * (y n).val)
    obtain ⟨hd, hderr⟩ := ih (fun k hk => hx k (by omega)) (fun k hk => hy k (by omega)) (by linarith)
    obtain ⟨hm, hmerr⟩ := F64.mul_near (hx n (by omega)) (hy n (by omega)) (by linarith)
    rw [dot_succ]
    generalize (x n).val * (y n).val = p at *
    generalize ∑ k ∈ Finset.range n, (x k).val * (y k).val = S at *
    have hadd : |(dot n x y).val + (F64.mul (x n) (y n)).val - (S + p)| ≤ 2 * n * roundError + roundError := by
      rw [add_sub_add_comm]
      exact (abs_add_le _ _).trans (add_le_add hderr hmerr)
    have hmag : |(dot n x y).val + (F64.mul (x n) (y n)).val| ≤ 2 ^ 11 := by
      have htri := abs_sub_abs_le_abs_sub ((dot n x y).val + (F64.mul (x n) (y n)).val) (S + p)
      have := abs_add_le S p
      linarith
    obtain ⟨ha, haerr⟩ := F64.add_near hd hm hmag
    exact ⟨ha, (abs_sub_le _ _ _).trans (by linarith)⟩

/-- A value within a quarter of the integers `lo` to `hi` rounds to one of them. -/
theorem round64_mem {x : F64} {lo hi : ℤ} (hx : x.valid) (habs : |x.val| ≤ 2000) (hlo : lo - 1 / 4 ≤ x.val)
    (hhi : x.val ≤ hi + 1 / 4) : lo ≤ round64 x ∧ round64 x ≤ hi := by
  have hmag : |x.val + F64.half.val| ≤ 2 ^ 11 := by
    rw [F64.val_half, abs_le] at *
    constructor <;> linarith
  have hρ : roundError < 1 / 4 := by norm_num [roundError]
  obtain ⟨-, herr⟩ := F64.add_near hx F64.half_valid hmag
  obtain ⟨hlow, hhigh⟩ := abs_le.mp herr
  rw [F64.val_half] at hlow hhigh
  rw [round64_eq_floor hx]
  refine ⟨Int.le_floor.mpr (by linarith), Int.lt_add_one_iff.mp (Int.floor_lt.mpr ?_)⟩
  push_cast
  linarith

/-! ### The stored kernel -/

/-- Entry (i, j) of the stored order-`n` kernel as a rational. -/
def kernelVal (n i j : ℕ) : ℚ := (F64.ofBits (kval n i j)).val

/-- The sum of the magnitudes of a row of the kernel. -/
def absRowSum (n i : ℕ) : ℚ := ∑ j ∈ Finset.range n, |kernelVal n i j|

/-- Every row has unit norm, but for the rounding of its entries. -/
theorem sum_sq_kernelVal_le : ∀ n < 9, ∀ i < n, ∑ j ∈ Finset.range n, kernelVal n i j ^ 2 ≤ 1 + 1 / 2 ^ 20 := by
  decide +kernel

/-- Every row of the order-8 kernel but the first sums to 0: its entries cancel in pairs. -/
theorem sum_kernelVal_eq_zero : ∀ i < 8, i ≠ 0 → ∑ j ∈ Finset.range 8, kernelVal 8 i j = 0 := by decide +kernel

theorem sq_sum_kernelVal_zero : |(∑ j ∈ Finset.range 8, kernelVal 8 0 j) ^ 2 - 8| ≤ 1 / 2 ^ 20 := by decide +kernel

theorem absRowSum_nonneg (n i : ℕ) : 0 ≤ absRowSum n i := Finset.sum_nonneg fun _ _ => abs_nonneg _

/-- By Cauchy and Schwarz, a row of unit norm has magnitudes that sum to at most √n. -/
theorem absRowSum_sq_le {n i : ℕ} (hn : n ≤ 8) (hi : i < n) : absRowSum n i ^ 2 ≤ 8 + 1 / 2 ^ 17 := by
  have hsq := sum_sq_kernelVal_le n (by omega) i hi
  have hn' : (n : ℚ) ≤ 8 := by exact_mod_cast hn
  calc absRowSum n i ^ 2 ≤ n * ∑ j ∈ Finset.range n, |kernelVal n i j| ^ 2 := by
        have h := sq_sum_le_card_mul_sum_sq (s := Finset.range n) (f := fun j => |kernelVal n i j|)
        rwa [Finset.card_range] at h
    _ ≤ 8 * (1 + 1 / 2 ^ 20) := by simp only [sq_abs]; gcongr
    _ = 8 + 1 / 2 ^ 17 := by norm_num

theorem absRowSum_le_three {n i : ℕ} (hn : n ≤ 8) (hi : i < n) : absRowSum n i ≤ 3 :=
  le_of_sq_le_sq (by linarith [absRowSum_sq_le hn hi]) (by norm_num)

theorem kernelDatum_kernelOf {n i j : ℕ} (hn : n ≤ 8) (hi : i < n) (hj : j < n) :
    kernelDatum (kernelOf n) i j = F64.ofBits (kval n i j) := by
  rw [kernelDatum, kernelAt_kernelOf n (by omega) (by omega), if_pos ⟨hi, hj⟩]

theorem kernelDatum_valid {n i j : ℕ} (hn : n ≤ 8) (hi : i < n) (hj : j < n) : (kernelDatum (kernelOf n) i j).valid := by
  rw [kernelDatum_kernelOf hn hi hj]
  exact (kval_nearestReal hn hi hj).1

theorem kernelDatum_val {n i j : ℕ} (hn : n ≤ 8) (hi : i < n) (hj : j < n) :
    (kernelDatum (kernelOf n) i j).val = kernelVal n i j := by
  rw [kernelDatum_kernelOf hn hi hj, kernelVal]

/-! ### The two passes -/

/-- Products with a row of the kernel of factors at most `b` in magnitude. -/
theorem sum_abs_kernelVal_mul_le {n i : ℕ} {f : ℕ → ℚ} {b : ℚ} (hf : ∀ k < n, |f k| ≤ b) :
    ∑ k ∈ Finset.range n, |kernelVal n i k * f k| ≤ absRowSum n i * b := by
  rw [absRowSum, Finset.sum_mul]
  refine Finset.sum_le_sum fun k hk => ?_
  rw [abs_mul]
  exact mul_le_mul_of_nonneg_left (hf k (Finset.mem_range.mp hk)) (abs_nonneg _)

theorem abs_sum_kernelVal_mul_le {n i : ℕ} {f : ℕ → ℚ} {b : ℚ} (hf : ∀ k < n, |f k| ≤ b) :
    |∑ k ∈ Finset.range n, kernelVal n i k * f k| ≤ absRowSum n i * b :=
  (Finset.abs_sum_le_sum_abs _ _).trans (sum_abs_kernelVal_mul_le hf)

/-- A sum of products with a row of the kernel takes at most sixteen roundings. -/
theorem dot_kernelDatum_near {n i : ℕ} {f : ℕ → F64} (hn : n ≤ 8) (hi : i < n)
    (hf : ∀ k < n, (f k).valid ∧ |(f k).val| ≤ 400) :
    (dot n (kernelDatum (kernelOf n) i) f).valid ∧
      |(dot n (kernelDatum (kernelOf n) i) f).val - ∑ k ∈ Finset.range n, kernelVal n i k * (f k).val| ≤
        16 * roundError := by
  have hval (k : ℕ) (hk : k ∈ Finset.range n) : kernelVal n i k = (kernelDatum (kernelOf n) i k).val :=
    (kernelDatum_val hn hi (Finset.mem_range.mp hk)).symm
  have hsum := sum_abs_kernelVal_mul_le (i := i) fun k hk => (hf k hk).2
  have hthree := absRowSum_le_three hn hi
  have hrounds : 2 * n * roundError ≤ 16 * roundError := by
    have : (n : ℚ) ≤ 8 := by exact_mod_cast hn
    exact mul_le_mul_of_nonneg_right (by linarith) (by norm_num [roundError])
  have hρ : 16 * roundError ≤ 1 := by norm_num [roundError]
  rw [Finset.sum_congr rfl fun k hk => by rw [hval k hk]] at hsum
  rw [Finset.sum_congr rfl fun k hk => by rw [hval k hk]]
  obtain ⟨hvalid, herr⟩ :=
    dot_near (fun k hk => kernelDatum_valid hn hi hk) (fun k hk => (hf k hk).1) (by linarith)
  exact ⟨hvalid, herr.trans hrounds⟩

/-- Entry (r, v) of the exact product B · Kᵀ. -/
def exactRow (n : ℕ) (B : ℕ → ℕ → ℤ) (r v : ℕ) : ℚ := ∑ k ∈ Finset.range n, kernelVal n v k * B r k

/-- Entry (u, v) of the exact product K · B · Kᵀ. -/
def exactDct (n : ℕ) (B : ℕ → ℕ → ℤ) (u v : ℕ) : ℚ := ∑ k ∈ Finset.range n, kernelVal n u k * exactRow n B k v

section
variable {n : ℕ} {B : ℕ → ℕ → ℤ} (hB : ∀ r c, |B r c| ≤ 128)
include hB

theorem abs_exactRow_le (r v : ℕ) : |exactRow n B r v| ≤ absRowSum n v * 128 :=
  abs_sum_kernelVal_mul_le fun k _ => by exact_mod_cast hB r k

theorem rowPass_near (hn : n ≤ 8) (r : ℕ) {v : ℕ} (hv : v < n) :
    (rowPass n (kernelOf n) B r v).valid ∧ |(rowPass n (kernelOf n) B r v).val - exactRow n B r v| ≤ 16 * roundError := by
  have hof (k : ℕ) := F64.ofInt_exact (j := B r k) (by have := abs_le.mp (hB r k); omega)
  have hnear := dot_kernelDatum_near (f := fun k => F64.ofInt (B r k)) hn hv fun k _ =>
    ⟨(hof k).1, by rw [(hof k).2]; exact_mod_cast (hB r k).trans (by norm_num)⟩
  simp only [hof] at hnear
  rw [rowPass, dot_comm]
  exact hnear

/-- The envelope of R165, about the stored kernel: the error of each row sum, taken through the column pass, and that of
the column pass. -/
theorem columnPass_near (hn : n ≤ 8) {u v : ℕ} (hu : u < n) (hv : v < n) :
    (columnPass n (kernelOf n) B u v).valid ∧
      |(columnPass n (kernelOf n) B u v).val - exactDct n B u v| ≤ 64 * roundError := by
  have hrow (k : ℕ) := rowPass_near hB hn k hv
  have hρ : 0 < roundError ∧ 16 * roundError ≤ 1 := by norm_num [roundError]
  have hmag (k : ℕ) : |(rowPass n (kernelOf n) B k v).val| ≤ 400 := by
    have htri := abs_sub_abs_le_abs_sub (rowPass n (kernelOf n) B k v).val (exactRow n B k v)
    linarith [(hrow k).2, abs_exactRow_le hB (n := n) k v, absRowSum_le_three hn hv, hρ.2]
  obtain ⟨hvalid, herr⟩ := dot_kernelDatum_near hn hu fun k _ => ⟨(hrow k).1, hmag k⟩
  have hthrough := abs_sum_kernelVal_mul_le (i := u) fun k (_ : k < n) => (hrow k).2
  have hthree := mul_le_mul_of_nonneg_right (absRowSum_le_three hn hu) (show 0 ≤ 16 * roundError by linarith [hρ.1])
  simp only [mul_sub, Finset.sum_sub_distrib] at hthrough
  exact ⟨hvalid, (abs_sub_le _ _ _).trans ((add_le_add herr hthrough).trans (by linarith))⟩

/-- The bound of R164 for the exact product, but for the rounding of the kernel's entries. -/
theorem abs_exactDct_le (hn : n ≤ 8) {u v : ℕ} (hu : u < n) (hv : v < n) : |exactDct n B u v| ≤ 1024 + 1 / 2 ^ 10 := by
  have hsq := two_mul_le_add_sq (absRowSum n u) (absRowSum n v)
  have hu2 := absRowSum_sq_le hn hu
  have hv2 := absRowSum_sq_le hn hv
  calc |exactDct n B u v| ≤ absRowSum n u * (absRowSum n v * 128) :=
        abs_sum_kernelVal_mul_le fun k _ => abs_exactRow_le hB k v
    _ ≤ 1024 + 1 / 2 ^ 10 := by linarith

/-- What the last rounding reads is within a quarter of the bounds of R164. -/
theorem abs_columnPass_le (hn : n ≤ 8) {u v : ℕ} (hu : u < n) (hv : v < n) :
    |(columnPass n (kernelOf n) B u v).val| ≤ 1024 + 1 / 4 := by
  have htri := abs_sub_abs_le_abs_sub (columnPass n (kernelOf n) B u v).val (exactDct n B u v)
  have hρ : 64 * roundError ≤ 1 / 8 := by norm_num [roundError]
  linarith [(columnPass_near hB hn hu hv).2, abs_exactDct_le hB hn hu hv]

theorem dctEval_mem (hn : n ≤ 8) {u v : ℕ} (hu : u < n) (hv : v < n) :
    -1024 ≤ dctEval n (kernelOf n) B u v ∧ dctEval n (kernelOf n) B u v ≤ 1024 := by
  have habs := abs_columnPass_le hB hn hu hv
  obtain ⟨hlo, hhi⟩ := abs_le.mp habs
  exact round64_mem (columnPass_near hB hn hu hv).1 (by linarith) (by push_cast; linarith) (by push_cast; linarith)

/-- An output whose exact value is near an integer is that integer (R165). -/
theorem dctEval_eq_of_near (hn : n ≤ 8) {u v : ℕ} (hu : u < n) (hv : v < n) {c : ℤ}
    (h : |exactDct n B u v - c| ≤ 1 / 8) : dctEval n (kernelOf n) B u v = c := by
  have hρ : 64 * roundError ≤ 1 / 8 := by norm_num [roundError]
  obtain ⟨hvalid, herr⟩ := columnPass_near hB hn hu hv
  obtain ⟨hlo, hhi⟩ := abs_le.mp ((abs_sub_le _ _ _).trans (add_le_add herr h))
  obtain ⟨hle, hge⟩ := round64_mem (lo := c) (hi := c) hvalid ((abs_columnPass_le hB hn hu hv).trans (by norm_num))
    (by linarith) (by linarith)
  exact le_antisymm hge hle

end

/-! ### A constant block -/

theorem exactDct_const (n : ℕ) (a : ℤ) (u v : ℕ) : exactDct n (fun _ _ => a) u v =
    a * ((∑ k ∈ Finset.range n, kernelVal n u k) * ∑ k ∈ Finset.range n, kernelVal n v k) := by
  simp only [exactDct, exactRow, ← Finset.sum_mul]
  ring

/-- The product of two row sums of the order-8 kernel: 8 for row 0 twice, but for the rounding of its entries. -/
theorem rowSum_mul_rowSum_near {i j : ℕ} (hi : i < 8) (hj : j < 8) :
    |(∑ k ∈ Finset.range 8, kernelVal 8 i k) * (∑ k ∈ Finset.range 8, kernelVal 8 j k) -
      (if i = 0 ∧ j = 0 then 8 else 0)| ≤ 1 / 2 ^ 20 := by
  split_ifs with h
  · obtain ⟨rfl, rfl⟩ := h
    rw [← sq]
    exact sq_sum_kernelVal_zero
  · rcases not_and_or.mp h with h0 | h0
    · rw [sum_kernelVal_eq_zero i hi h0]
      norm_num
    · rw [sum_kernelVal_eq_zero j hj h0]
      norm_num

/-- Settles O29: the exact product is `v` times two row sums of the kernel, near 8·v at (0, 0) and near 0 elsewhere. -/
theorem constantBlockHasOnlyItsDc : Obligations.ConstantBlockHasOnlyItsDc := by
  intro v hlo hhi i hi j hj
  have hv : |v| ≤ 128 := abs_le.mpr ⟨hlo, hhi.trans (by norm_num)⟩
  have hv' : |(v : ℚ)| ≤ 128 := by exact_mod_cast hv
  refine dctEval_eq_of_near (fun _ _ => hv) le_rfl hi hj ?_
  have hc : ((if i = 0 ∧ j = 0 then 8 * v else 0 : ℤ) : ℚ) = v * (if i = 0 ∧ j = 0 then 8 else 0) := by
    split_ifs <;> push_cast <;> ring
  rw [exactDct_const, hc, ← mul_sub, abs_mul]
  calc |(v : ℚ)| * _ ≤ 128 * (1 / 2 ^ 20) := mul_le_mul hv' (rowSum_mul_rowSum_near hi hj) (abs_nonneg _) (by norm_num)
    _ ≤ 1 / 8 := by norm_num

theorem toInt_ofInt_of_mem_range {c : ℤ} (hlo : -1024 ≤ c) (hhi : c ≤ 1024) : (BitVec.ofInt 16 c).toInt = c := by
  rw [BitVec.toInt_ofInt]
  exact Int.bmod_eq_of_le (by omega) (by omega)

/-- Settles O30: the range from the error of both passes, and the bound reached from the constant block of −128. -/
theorem transformOutputsFit : Obligations.TransformOutputsFit := by
  refine ⟨fun n B _ hn hB u hu v hv => ?_, constantBlockHasOnlyItsDc (-128) le_rfl (by decide) 0 (by decide) 0 (by decide)⟩
  have hB' (r c : ℕ) : |B r c| ≤ 128 := abs_le.mpr ⟨(hB r c).1, (hB r c).2.trans (by norm_num)⟩
  obtain ⟨hlo, hhi⟩ := dctEval_mem hB' hn hu hv
  exact ⟨hlo, hhi, toInt_ofInt_of_mem_range hlo hhi⟩

end Sys2Proof.Machine

/-! XFORM (spec/41_block_transform.md R160, R168): its checks in their order, and the transform it stores. -/

namespace Sys2Proof.Machine

theorem inRange_iff_fits {s : State} {base len : Nat} : inRange s ⟨base, len⟩ = true ↔ fits s base len := inRange_iff

theorem overlaps_iff_not_apart {b1 l1 b2 l2 : Nat} : overlaps ⟨b1, l1⟩ ⟨b2, l2⟩ = true ↔ ¬apart b1 l1 b2 l2 := by
  rw [overlaps_iff, apart]
  dsimp only
  omega

/-- Both variants are one command: L has no effect (R168). -/
theorem exec_xform {i : Instr} (hi : i = .xform ∨ i = .xformLs) (s : State) :
    exec i s = .next (conclude (xformCheck s) xformEffect s) := by
  rcases hi with rfl | rfl <;> rfl

section
variable {s : State}

theorem xformCheck_noKernel (hk : s.kvalid = false) : xformCheck s = some .noKernel := by
  simp [xformCheck, firstError_cons, hk]

/-- With a kernel stored, the checks are those of the two buffers (R160). -/
theorem xformCheck_of_kvalid (hk : s.kvalid = true) :
    xformCheck s = firstError
      [(!(inRange s (xformSrc s) && inRange s (xformDst s)), .addrRange),
        (overlaps (xformSrc s) (xformDst s), .overlap)] := by
  rw [xformCheck, firstError_cons, hk]
  rfl

theorem xformCheck_addrRange (hk : s.kvalid = true)
    (h : ¬(fits s (aSrc0 s) (kernelOrder s * kernelOrder s) ∧ fits s (aDst s) (2 * (kernelOrder s * kernelOrder s)))) :
    xformCheck s = some .addrRange := by
  rw [← inRange_iff_fits, ← inRange_iff_fits, ← Bool.and_eq_true, Bool.not_eq_true] at h
  rw [xformCheck_of_kvalid hk, firstError_cons, xformSrc, xformDst, h]
  rfl

/-- With both buffers in range, the one check left is that of OVERLAP. -/
theorem xformCheck_of_fits (hk : s.kvalid = true) (hsrc : fits s (aSrc0 s) (kernelOrder s * kernelOrder s))
    (hdst : fits s (aDst s) (2 * (kernelOrder s * kernelOrder s))) :
    xformCheck s = if overlaps (xformSrc s) (xformDst s) then some .overlap else none := by
  rw [← inRange_iff_fits] at hsrc hdst
  rw [xformCheck_of_kvalid hk, firstError_cons, firstError_cons, xformSrc, xformDst, hsrc, hdst]
  rfl

/-- Coefficient (u, v) of the block XFORM stores, when no host write raced with a byte of either buffer. -/
theorem read16_xformEffect (hsrc : raceFree s (xformSrc s)) (hdst : raceFree s (xformDst s)) {u v : Nat}
    (hu : u < kernelOrder s) (hv : v < kernelOrder s) :
    Memory.read16 (xformEffect s).mem (aDst s + 2 * (u * kernelOrder s + v)) = xformCoeff s u v := by
  have hk : u * kernelOrder s + v < kernelOrder s * kernelOrder s := by
    calc u * kernelOrder s + v < (u + 1) * kernelOrder s := by rw [Nat.succ_mul]; omega
      _ ≤ kernelOrder s * kernelOrder s := Nat.mul_le_mul_right _ hu
  have hdiv : (u * kernelOrder s + v) / kernelOrder s = u := by
    rw [Nat.mul_comm, Nat.mul_add_div (by omega), Nat.div_eq_of_lt hv, Nat.add_zero]
  have hmod : (u * kernelOrder s + v) % kernelOrder s = v := by
    rw [Nat.mul_comm, Nat.mul_add_mod, Nat.mod_eq_of_lt hv]
  refine (read16_storeBuffer (n := (xformDst s).len) (by rw [xformDst]; dsimp only; omega) _
    (fun k => xformCoeff s (k / kernelOrder s) (k % kernelOrder s)) fun j hj => ?_).trans (by rw [hdiv, hmod])
  rintro (hraced | ⟨a, ha, hraced⟩)
  · exact hdst _ (Nat.le_add_right _ _) (by rw [xformDst]; dsimp only; omega) hraced
  · obtain ⟨hlo, hhi⟩ := mem_addresses.mp ha
    exact hsrc a hlo hhi hraced

end

/-- Settles O31: the checks pass, and the effect is one output buffer. -/
theorem xformWritesTheTransform : Obligations.XformWritesTheTransform := by
  intro i s hi hk hsrc hdst hapart
  have hno : overlaps (xformSrc s) (xformDst s) = false :=
    Bool.eq_false_iff.mpr fun h => overlaps_iff_not_apart.mp h hapart
  have hexec : exec i s = .next (complete (xformEffect s)) := by
    rw [exec_xform hi, xformCheck_of_fits hk hsrc hdst, hno]
    rfl
  exact ⟨_, hexec, rfl, fun a ha => read_storeBuffer_outside ha _ _ _,
    fun hsrcFree hdstFree u hu v hv => read16_xformEffect hsrcFree hdstFree hu hv⟩

/-- Settles O32: each case names the first check that fails. -/
theorem xformErrorsInOrder : Obligations.XformErrorsInOrder := by
  intro i s hi
  rw [exec_xform hi]
  refine ⟨fun hk => ?_, fun hk h => ?_, fun hk hsrc hdst hov => ?_⟩
  · rw [xformCheck_noKernel hk]
    rfl
  · rw [xformCheck_addrRange hk h]
    rfl
  · have hover : overlaps (xformSrc s) (xformDst s) = true := overlaps_iff_not_apart.mpr hov
    rw [xformCheck_of_fits hk hsrc hdst, hover]
    rfl

end Sys2Proof.Machine

/-! How a command ends, from what its check finds (spec/60_exceptions.md R307): the error's end, or the whole effect. -/

namespace Sys2Proof.Machine

theorem exec_of_checkOf_some {i : Instr} {s : State} {c : ErrorCode} (h : checkOf i s = some c) :
    exec i s = errorEnd c s := by
  rcases exec_cases i s with ⟨d, hd, e⟩ | ⟨-, hnone, -⟩ | ⟨-, hnone, -⟩
  · cases h.symm.trans hd
    exact e
  · cases h.symm.trans hnone
  · cases h.symm.trans hnone

theorem exec_of_checkOf_none {i : Instr} {s : State} (hi : i ≠ .encode) (h : checkOf i s = none) :
    exec i s = .next (completed (effectOf i s)) := by
  rw [exec_eq hi, h, conclude_none]
  rfl

end Sys2Proof.Machine

/-! Quality scaling (spec/42_quantization.md R180, R183): the clamped quality, its scale factor and the scaled value. -/

namespace Sys2Proof.Machine

theorem clampQuality_cast (q : Int) : (clampQuality q : Int) = min (max q 1) 100 :=
  Int.toNat_of_nonneg (by omega)

theorem clampQuality_mem (q : Int) : 1 ≤ clampQuality q ∧ clampQuality q ≤ 100 := by
  have := clampQuality_cast q
  omega

theorem clampQuality_mono {q q' : Int} (h : q ≤ q') : clampQuality q ≤ clampQuality q' := by
  have := clampQuality_cast q
  have := clampQuality_cast q'
  omega

theorem scaleFactor_of_lt {qc : Nat} (h : qc < 50) : scaleFactor qc = 5000 / qc := if_pos h

theorem scaleFactor_of_ge {qc : Nat} (h : 50 ≤ qc) : scaleFactor qc = 200 - 2 * qc := if_neg (Nat.not_lt.mpr h)

/-- The scale factor is the rule's own expression on integers (R180). -/
theorem scaleFactor_cast {qc : Nat} (h : qc ≤ 100) :
    (scaleFactor qc : Int) = if (qc : Int) < 50 then Int.tdiv 5000 qc else 200 - 2 * qc := by
  rcases Nat.lt_or_ge qc 50 with hlt | hge
  · rw [scaleFactor_of_lt hlt, if_pos (by omega), Int.tdiv_eq_ediv_of_nonneg (by omega)]
    exact Int.natCast_ediv 5000 qc
  · rw [scaleFactor_of_ge hge, if_neg (by omega)]
    omega

theorem scaleFactor_le (qc : Nat) : scaleFactor qc ≤ 5000 := by
  rcases Nat.lt_or_ge qc 50 with hlt | hge
  · rw [scaleFactor_of_lt hlt]
    exact Nat.div_le_self 5000 qc
  · rw [scaleFactor_of_ge hge]
    omega

theorem scaleFactor_gt_hundred {qc : Nat} (hpos : 1 ≤ qc) (hlt : qc < 50) : 100 < scaleFactor qc := by
  rw [scaleFactor_of_lt hlt, Nat.lt_div_iff_mul_lt hpos]
  omega

/-- A better quality never scales up: within each of the two expressions, and from the one below 50 to the other. -/
theorem scaleFactor_anti {q q' : Nat} (hpos : 1 ≤ q) (h : q ≤ q') : scaleFactor q' ≤ scaleFactor q := by
  rcases Nat.lt_or_ge q' 50 with hlt' | hge'
  · rw [scaleFactor_of_lt hlt', scaleFactor_of_lt (by omega)]
    exact Nat.div_le_div_left h hpos
  · rw [scaleFactor_of_ge hge']
    rcases Nat.lt_or_ge q 50 with hlt | hge
    · have := scaleFactor_gt_hundred hpos hlt
      omega
    · rw [scaleFactor_of_ge hge]
      omega

/-- `qq` is the rule's own expression, with truncating divisions on integers (R180, R182). -/
theorem qq_cast (base : Nat) (q : Int) : (qq base q : Int) = specQq base q := by
  have hsf := scaleFactor_cast (clampQuality_mem q).2
  rw [clampQuality_cast] at hsf
  simp only [specQq]
  rw [← hsf, Int.tdiv_eq_ediv_of_nonneg (by positivity), qq]
  push_cast
  rfl

theorem qq_mem (base : Nat) (q : Int) : 1 ≤ qq base q ∧ qq base q ≤ 255 := by
  rw [qq]
  omega

theorem qq_of_clampQuality_eq (base : Nat) {q q' : Int} (h : clampQuality q = clampQuality q') :
    qq base q = qq base q' := by
  rw [qq, qq, h]

theorem qq_anti (base : Nat) {q q' : Int} (h : q ≤ q') : qq base q' ≤ qq base q := by
  have hsf : scaleFactor (clampQuality q') ≤ scaleFactor (clampQuality q) :=
    scaleFactor_anti (clampQuality_mem q).1 (clampQuality_mono h)
  have hmul := Nat.mul_le_mul_left base hsf
  rw [qq, qq]
  omega

theorem qq_fifty {base : Nat} (h : base ≤ 255) : qq base 50 = max base 1 := by
  rw [qq, show scaleFactor (clampQuality 50) = 100 by decide]
  omega

theorem qq_hundred (base : Nat) : qq base 100 = 1 := by
  rw [qq, show scaleFactor (clampQuality 100) = 0 by decide]
  omega

theorem qq_one {base : Nat} (h : 1 ≤ base) : qq base 1 = min (50 * base) 255 := by
  rw [qq, show scaleFactor (clampQuality 1) = 5000 by decide]
  omega

/-- Settles O34: the expression from that of the scale factor, and each property from the scale factor's own. -/
theorem qualityScalingFormula : Obligations.QualityScalingFormula := by
  intro base hbase
  refine ⟨fun q => ⟨qq_cast base q, ?_⟩, qq_mem base, fun q q' _ h _ => qq_anti base h, fun q hq => ?_,
    fun q hq => ?_, ⟨rfl, qq_fifty hbase⟩, ⟨rfl, qq_hundred base⟩, ⟨rfl, qq_one⟩, fun q => scaleFactor_gt_hundred⟩
  · exact Nat.add_le_add_right (Nat.mul_le_mul hbase (scaleFactor_le _)) 50
  · exact qq_of_clampQuality_eq base (by rw [clampQuality, max_eq_right hq]; rfl)
  · exact qq_of_clampQuality_eq base (by rw [clampQuality, max_eq_left (by omega), min_eq_right hq]; rfl)

/-- Settles O33: QSCALE has no check, and its effect is RESULT0 alone. -/
theorem qscaleScalesTheBase : Obligations.QscaleScalesTheBase := by
  intro b s _
  rw [exec_of_checkOf_none (by simp) rfl, effectOf, qscaleEffect, ← qq_cast, BitVec.ofInt_natCast]

theorem entry_scaleTable (base : Vector Byte 64) (q : Int) {k : Nat} (hk : k < 64) :
    ((entry (scaleTable base q) k).toNat : Int) = specQq (entry base k).toNat q := by
  have hlt : qq (entry base k).toNat q < 2 ^ 8 := Nat.lt_succ_of_le (qq_mem _ q).2
  rw [scaleTable, entry_ofFn _ hk, BitVec.toNat_ofNat, Nat.mod_eq_of_lt hlt, qq_cast]

theorem entry_zigzagTable (t : Vector Byte 64) {k : Nat} (hk : k < 64) : entry (zigzagTable t) k = entry t (ZZ k) :=
  entry_ofFn _ hk

/-- Settles O35: QTBUILD has no check, and its effect is the two scaled tables and their zigzag copies. -/
theorem qtbuildBuildsTheTables : Obligations.QtbuildBuildsTheTables := by
  intro s
  exact ⟨completed (buildTables s), exec_of_checkOf_none (by simp) rfl, rfl,
    fun _ hk => ⟨entry_scaleTable s.params.baseLuma (aQuality s) hk,
      entry_scaleTable s.params.baseChroma (aQuality s) hk⟩,
    fun _ hk => ⟨entry_zigzagTable _ hk, entry_zigzagTable _ hk⟩⟩

end Sys2Proof.Machine

/-! Quantization of a coefficient (spec/42_quantization.md R191, R192). -/

namespace Sys2Proof.Machine

theorem qround_eq_fdiv (c : Int) (q : Nat) : qround c q = Int.fdiv (2 * c + q) (2 * q) :=
  (Int.fdiv_eq_ediv_of_nonneg _ (by omega)).symm

theorem qround_eq_floor (c : Int) {q : Nat} (hq : 1 ≤ q) : qround c q = ⌊(c : ℚ) / q + 1 / 2⌋ := by
  have hquot : (c : ℚ) / q + 1 / 2 = ((2 * c + q : ℤ) : ℚ) / ((2 * q : ℕ) : ℚ) := by
    have : (q : ℚ) ≠ 0 := by positivity
    push_cast
    field_simp
  rw [hquot, Rat.floor_intCast_div_natCast, qround]
  push_cast
  rfl

/-- Settles O36: the quotient plus 1/2 is (2c + q) / 2q, whose floor is the integer division. -/
theorem qroundIsFloorOfQuotientPlusHalf : Obligations.QroundIsFloorOfQuotientPlusHalf :=
  ⟨fun c q hq _ => ⟨qround_eq_floor c hq, qround_eq_fdiv c q⟩, rfl, rfl⟩

theorem qround_one (c : Int) : qround c 1 = c := by
  rw [qround]
  omega

/-- Quantization keeps the range of i16: no divisor enlarges the quotient, and the 1/2 added to at most 32767 stays
below 32768. -/
theorem qround_mem_i16 {c : Int} {q : Nat} (hlo : -2 ^ 15 ≤ c) (hhi : c < 2 ^ 15) (hq : 1 ≤ q) :
    -2 ^ 15 ≤ qround c q ∧ qround c q < 2 ^ 15 :=
  ⟨Int.le_ediv_of_mul_le (by omega) (by omega), Int.ediv_lt_of_lt_mul (by omega) (by omega)⟩

/-- Settles O37: an i16 quantized stays in the range of i16, where the store is exact. -/
theorem quantizedCoefficientFits : Obligations.QuantizedCoefficientFits := by
  intro c q hq _
  obtain ⟨hlo, hhi⟩ := qround_mem_i16 c.le_toInt c.toInt_lt hq
  exact ⟨BitVec.toInt_ofInt_eq_self (by decide) hlo hhi, qround_one c.toInt⟩

end Sys2Proof.Machine

/-! QUANT (spec/42_quantization.md R190): its checks in their order, and the block it stores. -/

namespace Sys2Proof.Machine

theorem quantCheck_noQtable {s : State} (hq : s.qvalid = false) : quantCheck s = some .noQtable := by
  rw [quantCheck, firstError_cons, hq]
  rfl

/-- With tables built, the one check left is that of the block's range (R190). -/
theorem quantCheck_of_qvalid {s : State} (hq : s.qvalid = true) :
    quantCheck s = if inRange s (quantBuffer s) then none else some .addrRange := by
  rw [quantCheck, firstError_cons, firstError_cons, hq]
  cases inRange s (quantBuffer s) <;> rfl

/-- Coefficient `k` of the block QUANT stores, when no host write raced with its two bytes. -/
theorem read16_quantEffect {s : State} {k : Nat} (hk : k < 64) (hfree : raceFree s ⟨aSrc0 s + 2 * k, 2⟩)
    (Q : Vector Byte 64) : Memory.read16 (quantEffect Q s).mem (aSrc0 s + 2 * k) = quantCoeff Q s k := by
  have hnot : ∀ a, a = aSrc0 s + 2 * k ∨ a = aSrc0 s + 2 * k + 1 → a ∉ s.raced :=
    fun a ha => hfree a (by dsimp only; omega) (by dsimp only; omega)
  refine read16_storeBuffer (by omega) _ (quantCoeff Q s) fun j hj => ?_
  have hdiv : j / 2 = k := by omega
  rintro (hraced | ⟨a, ha, hraced⟩)
  · exact hnot _ (by omega) hraced
  · exact hnot a (by simpa [hdiv] using ha) hraced

/-- Settles O38: the checks pass, and the effect is one output buffer computed from the old coefficients. -/
theorem quantDividesTheBlockInPlace : Obligations.QuantDividesTheBlockInPlace := by
  intro i s Q hi hq hfits
  have hcheck : quantCheck s = none := by
    rw [quantCheck_of_qvalid hq, quantBuffer, inRange_iff_fits.mpr hfits]
    rfl
  have hexec : exec i s = .next (completed (quantEffect Q s)) := by
    rcases hi with ⟨rfl, rfl⟩ | ⟨rfl, rfl⟩ <;> exact exec_of_checkOf_none (by simp) hcheck
  refine ⟨_, hexec, rfl, fun a ha => read_storeBuffer_outside ha _ _ _, fun k hk hfree => ?_⟩
  rw [← qround_eq_fdiv]
  exact read16_quantEffect hk hfree Q

end Sys2Proof.Machine

/-! ZIGZAG's checks (spec/43_zigzag.md R212), and the errors of QUANT and ZIGZAG in their order (R302). -/

namespace Sys2Proof.Machine

theorem checkOf_zigzagForm (b t : Bool) (s : State) : checkOf (zigzagForm b t) s = zigzagCheck b t s := by
  cases b <;> cases t <;> rfl

section
variable {b t : Bool} {s : State}

theorem zigzagCheck_addrRange
    (h : ¬(fits s (aSrc0 s) (if b then 128 else 0) ∧ fits s (aSrc1 s) (if t then 64 else 0))) :
    zigzagCheck b t s = some .addrRange := by
  rw [← inRange_iff_fits, ← inRange_iff_fits, ← Bool.and_eq_true, Bool.not_eq_true] at h
  rw [zigzagCheck, firstError_cons, zigzagBlockBuffer, zigzagTableBuffer, h]
  rfl

/-- With both operands in range, the one check left is that of OVERLAP. -/
theorem zigzagCheck_of_fits (hblock : fits s (aSrc0 s) (if b then 128 else 0))
    (htable : fits s (aSrc1 s) (if t then 64 else 0)) :
    zigzagCheck b t s = if overlaps (zigzagBlockBuffer b s) (zigzagTableBuffer t s) then some .overlap else none := by
  rw [← inRange_iff_fits] at hblock htable
  rw [zigzagCheck, firstError_cons, firstError_cons, zigzagBlockBuffer, zigzagTableBuffer, hblock, htable]
  rfl

end

/-- Settles O41: each case names the first check that fails. -/
theorem quantAndZigzagErrorsInOrder : Obligations.QuantAndZigzagErrorsInOrder := by
  refine ⟨fun i s hi => ?_, fun b t s => ⟨fun h => ?_, fun hblock htable hov => ?_⟩⟩
  · have hcheck : checkOf i s = quantCheck s := by rcases hi with rfl | rfl <;> rfl
    refine ⟨fun hq => exec_of_checkOf_some (hcheck.trans (quantCheck_noQtable hq)), fun hq h => ?_⟩
    exact exec_of_checkOf_some (hcheck.trans ((quantCheck_of_qvalid hq).trans (if_neg (mt inRange_iff_fits.mp h))))
  · exact exec_of_checkOf_some ((checkOf_zigzagForm b t s).trans (zigzagCheck_addrRange h))
  · exact exec_of_checkOf_some ((checkOf_zigzagForm b t s).trans
      ((zigzagCheck_of_fits hblock htable).trans (if_pos (overlaps_iff_not_apart.mpr hov))))

end Sys2Proof.Machine

/-! The zigzag permutation (spec/43_zigzag.md R210, R214): each natural position has one scan position. -/

namespace Sys2Proof.Machine

/-- The scan position at which a natural position is visited: the inverse of `ZZ` on 0..63. -/
def scanPosition (n : Nat) : Nat := zigzagEntries.idxOf n

theorem ZZ_lt : ∀ i < 64, ZZ i < 64 := by decide

theorem scanPosition_lt : ∀ n < 64, scanPosition n < 64 := by decide

theorem ZZ_scanPosition : ∀ n < 64, ZZ (scanPosition n) = n := by decide

theorem scanPosition_ZZ : ∀ i < 64, scanPosition (ZZ i) = i := by decide

/-- Consecutive scan positions are at most one row and one column apart in the 8×8 grid (R214). -/
theorem ZZ_succ_adjacent : ∀ i < 63, ZZ i / 8 ≤ ZZ (i + 1) / 8 + 1 ∧ ZZ (i + 1) / 8 ≤ ZZ i / 8 + 1 ∧
    ZZ i % 8 ≤ ZZ (i + 1) % 8 + 1 ∧ ZZ (i + 1) % 8 ≤ ZZ i % 8 + 1 := by decide

/-- Settles O39: `scanPosition` inverts `ZZ` on both sides, and a gather of the identity is `ZZ` itself. -/
theorem zigzagIsAPermutation : Obligations.ZigzagIsAPermutation := by
  refine ⟨by decide, fun n hn => ⟨scanPosition n, scanPosition_lt n hn, ZZ_scanPosition n hn⟩, ZZ_lt,
    fun i hi j hj h => ?_, rfl, rfl, fun i hi => ?_, ZZ_succ_adjacent⟩
  · rw [← scanPosition_ZZ i hi, h, scanPosition_ZZ j hj]
  · rw [entry_zigzagTable _ hi, entry_ofFn _ (ZZ_lt i hi)]

end Sys2Proof.Machine

/-! ZIGZAG's gather (spec/43_zigzag.md R211, R212): the bytes each selected operand takes, and what stays. -/

namespace Sys2Proof.Machine

/-- A byte of an output buffer with no race is what the command computes. -/
theorem read_storeBuffer_inside {s : State} {base n j : Nat} (hj : j < n) {srcs : Nat → List Nat} (f : Nat → Byte)
    (h : ¬(base + j ∈ s.raced ∨ ∃ a ∈ srcs j, a ∈ s.raced)) :
    Memory.read (storeBuffer base n srcs f s).mem (base + j) = f j := by
  rw [read_storeBuffer, if_pos (by omega), Nat.add_sub_cancel_left, settled_of_not_tainted f h]

section
variable {s : State} {k : Nat}

/-- Byte `i` of coefficient `k` comes from byte `i` of the old coefficient `ZZ k`. -/
theorem read_zigzagBlockEffect (hk : k < 64) (hdst : raceFree s ⟨aSrc0 s + 2 * k, 2⟩)
    (hsrc : raceFree s ⟨aSrc0 s + 2 * ZZ k, 2⟩) {i : Nat} (hi : i < 2) :
    Memory.read (zigzagBlockEffect s).mem (aSrc0 s + (2 * k + i)) = Memory.read s.mem (aSrc0 s + 2 * ZZ k + i) := by
  have hdiv : (2 * k + i) / 2 = k := by omega
  have hmod : (2 * k + i) % 2 = i := by omega
  rw [zigzagBlockEffect, read_storeBuffer_inside (by omega), hdiv, hmod]
  rw [hdiv]
  rintro (hraced | ⟨a, ha, hraced⟩)
  · exact hdst _ (by dsimp only; omega) (by dsimp only; omega) hraced
  · have hrange : a = aSrc0 s + 2 * ZZ k ∨ a = aSrc0 s + 2 * ZZ k + 1 := by simpa using ha
    exact hsrc a (by dsimp only; omega) (by dsimp only; omega) hraced

theorem read16_zigzagBlockEffect (hk : k < 64) (hdst : raceFree s ⟨aSrc0 s + 2 * k, 2⟩)
    (hsrc : raceFree s ⟨aSrc0 s + 2 * ZZ k, 2⟩) :
    Memory.read16 (zigzagBlockEffect s).mem (aSrc0 s + 2 * k) = Memory.read16 s.mem (aSrc0 s + 2 * ZZ k) :=
  congrArg₂ (· ++ ·) (read_zigzagBlockEffect hk hdst hsrc (i := 1) (by omega))
    (read_zigzagBlockEffect hk hdst hsrc (i := 0) (by omega))

theorem read_zigzagTableEffect (hk : k < 64) (hdst : raceFree s ⟨aSrc1 s + k, 1⟩)
    (hsrc : raceFree s ⟨aSrc1 s + ZZ k, 1⟩) :
    Memory.read (zigzagTableEffect s).mem (aSrc1 s + k) = Memory.read s.mem (aSrc1 s + ZZ k) := by
  refine read_storeBuffer_inside hk _ ?_
  rintro (hraced | ⟨a, ha, hraced⟩)
  · exact hdst _ (Nat.le_refl _) (Nat.lt_succ_self _) hraced
  · rw [List.mem_singleton.mp ha] at hraced
    exact hsrc _ (Nat.le_refl _) (Nat.lt_succ_self _) hraced

theorem read_zigzagBlockEffect_outside {a : Nat} (h : ¬(aSrc0 s ≤ a ∧ a < aSrc0 s + 128)) :
    Memory.read (zigzagBlockEffect s).mem a = Memory.read s.mem a := read_storeBuffer_outside h _ _ _

theorem read_zigzagTableEffect_outside {a : Nat} (h : ¬(aSrc1 s ≤ a ∧ a < aSrc1 s + 64)) :
    Memory.read (zigzagTableEffect s).mem a = Memory.read s.mem a := read_storeBuffer_outside h _ _ _

/-- The table's reordering leaves the block alone, the two being apart. -/
theorem read16_zigzagEffect {t : Bool} (hapart : apart (aSrc0 s) 128 (aSrc1 s) (if t then 64 else 0)) (hk : k < 64)
    (hdst : raceFree s ⟨aSrc0 s + 2 * k, 2⟩) (hsrc : raceFree s ⟨aSrc0 s + 2 * ZZ k, 2⟩) :
    Memory.read16 (zigzagEffect true t s).mem (aSrc0 s + 2 * k) = Memory.read16 s.mem (aSrc0 s + 2 * ZZ k) := by
  rw [← read16_zigzagBlockEffect hk hdst hsrc]
  cases t with
  | false => rfl
  | true =>
    have hout : ∀ i < 2, ¬(aSrc1 s ≤ aSrc0 s + 2 * k + i ∧ aSrc0 s + 2 * k + i < aSrc1 s + 64) := by
      unfold apart at hapart
      simp only [if_true] at hapart
      omega
    exact congrArg₂ (· ++ ·) (read_zigzagTableEffect_outside (s := zigzagBlockEffect s) (hout 1 (by omega)))
      (read_zigzagTableEffect_outside (s := zigzagBlockEffect s) (hout 0 (by omega)))

/-- The table's sources still hold their old bytes when a block apart from it has been reordered. -/
theorem read_zigzagEffect_table {b : Bool} (hapart : apart (aSrc0 s) (if b then 128 else 0) (aSrc1 s) 64) (hk : k < 64)
    (hdst : raceFree s ⟨aSrc1 s + k, 1⟩) (hsrc : raceFree s ⟨aSrc1 s + ZZ k, 1⟩) :
    Memory.read (zigzagEffect b true s).mem (aSrc1 s + k) = Memory.read s.mem (aSrc1 s + ZZ k) := by
  cases b with
  | false => exact read_zigzagTableEffect hk hdst hsrc
  | true =>
    have hout : ¬(aSrc0 s ≤ aSrc1 s + ZZ k ∧ aSrc1 s + ZZ k < aSrc0 s + 128) := by
      have := ZZ_lt k hk
      unfold apart at hapart
      simp only [if_true] at hapart
      omega
    exact (read_zigzagTableEffect (s := zigzagBlockEffect s) hk hdst hsrc).trans (read_zigzagBlockEffect_outside hout)

end

theorem effectOf_zigzagForm (b t : Bool) (s : State) : effectOf (zigzagForm b t) s = zigzagEffect b t s := by
  cases b <;> cases t <;> rfl

theorem mem_storedBuffers_zigzagForm {b t : Bool} {s : State} {buf : Buffer}
    (h : buf ∈ storedBuffers (zigzagForm b t) s) :
    (b = true ∧ buf = zigzagBlockBuffer true s) ∨ (t = true ∧ buf = zigzagTableBuffer true s) := by
  cases b <;> cases t
  case false.false => exact absurd h List.not_mem_nil
  all_goals simpa [zigzagForm, storedBuffers] using h

/-- Bytes outside the selected operands stay. -/
theorem read_zigzagEffect_outside {b t : Bool} {s : State} {a : Nat}
    (hblock : ¬(b = true ∧ aSrc0 s ≤ a ∧ a < aSrc0 s + 128)) (htable : ¬(t = true ∧ aSrc1 s ≤ a ∧ a < aSrc1 s + 64)) :
    Memory.read (zigzagEffect b t s).mem a = Memory.read s.mem a := by
  rw [← effectOf_zigzagForm]
  refine read_effectOf_outside fun buf hbuf hin => ?_
  rcases mem_storedBuffers_zigzagForm hbuf with ⟨hb, rfl⟩ | ⟨ht, rfl⟩
  · exact hblock ⟨hb, hin⟩
  · exact htable ⟨ht, hin⟩

theorem zigzagForm_ne_encode (b t : Bool) : zigzagForm b t ≠ .encode := by
  cases b <;> cases t <;> decide

/-- Settles O40: the checks pass, and the effect is the gather of each selected operand, the other out of its way. -/
theorem zigzagGathersInPlace : Obligations.ZigzagGathersInPlace := by
  intro b t s hblock htable hapart
  have hno : ¬overlaps (zigzagBlockBuffer b s) (zigzagTableBuffer t s) = true :=
    fun h => overlaps_iff_not_apart.mp h hapart
  have hcheck : checkOf (zigzagForm b t) s = none :=
    (checkOf_zigzagForm b t s).trans ((zigzagCheck_of_fits hblock htable).trans (if_neg hno))
  have hexec : exec (zigzagForm b t) s = .next (completed (zigzagEffect b t s)) := by
    rw [exec_of_checkOf_none (zigzagForm_ne_encode b t) hcheck, effectOf_zigzagForm]
  refine ⟨_, hexec, congrArg completed (zigzagEffect_frame b t s), fun a => read_zigzagEffect_outside, ?_, ?_⟩
  · rintro rfl k hk hdst hsrc
    exact read16_zigzagEffect hapart hk hdst hsrc
  · rintro rfl k hk hdst hsrc
    exact read_zigzagEffect_table hapart hk hdst hsrc

end Sys2Proof.Machine

/-! The checks of a command with one source and one output buffer (spec/20_memory.md R88, R89): in range, then apart. -/

namespace Sys2Proof.Machine

/-- The last two checks of EXTEND and of CROP, in their order (R227, R232). -/
def buffersCheck (s : State) (src dst : Buffer) : List (Bool × ErrorCode) :=
  [(!(inRange s src && inRange s dst), .addrRange), (overlaps src dst, .overlap)]

section
variable {s : State} {b1 l1 b2 l2 : Nat}

theorem buffersCheck_addrRange (h : ¬(fits s b1 l1 ∧ fits s b2 l2)) :
    firstError (buffersCheck s ⟨b1, l1⟩ ⟨b2, l2⟩) = some .addrRange := by
  rw [← inRange_iff_fits, ← inRange_iff_fits, ← Bool.and_eq_true, Bool.not_eq_true] at h
  rw [buffersCheck, firstError_cons, h]
  rfl

/-- With both buffers in range, the one check left is that of OVERLAP. -/
theorem buffersCheck_of_fits (hsrc : fits s b1 l1) (hdst : fits s b2 l2) :
    firstError (buffersCheck s ⟨b1, l1⟩ ⟨b2, l2⟩) = if overlaps ⟨b1, l1⟩ ⟨b2, l2⟩ then some .overlap else none := by
  rw [← inRange_iff_fits] at hsrc hdst
  rw [buffersCheck, firstError_cons, hsrc, hdst]
  rfl

theorem buffersCheck_overlap (hsrc : fits s b1 l1) (hdst : fits s b2 l2) (h : ¬apart b1 l1 b2 l2) :
    firstError (buffersCheck s ⟨b1, l1⟩ ⟨b2, l2⟩) = some .overlap :=
  (buffersCheck_of_fits hsrc hdst).trans (if_pos (overlaps_iff_not_apart.mpr h))

theorem buffersCheck_none (hsrc : fits s b1 l1) (hdst : fits s b2 l2) (h : apart b1 l1 b2 l2) :
    firstError (buffersCheck s ⟨b1, l1⟩ ⟨b2, l2⟩) = none :=
  (buffersCheck_of_fits hsrc hdst).trans (if_neg fun hov => overlaps_iff_not_apart.mp hov h)

end

/-- A command that ends without an error passed its checks, and its whole effect happened. -/
theorem completed_of_errCode_noError {i : Instr} {s t : State} (hi : i ≠ .encode) (hexec : exec i s = .next t)
    (ht : t.errCode = .noError) : checkOf i s = none ∧ t = completed (effectOf i s) := by
  cases hc : checkOf i s with
  | some c =>
    cases hexec.symm.trans (exec_of_checkOf_some hc)
    exact absurd ht (ne_noError (checkOf_mem hc))
  | none =>
    cases hexec.symm.trans (exec_of_checkOf_none hi hc)
    exact ⟨rfl, rfl⟩

end Sys2Proof.Machine

/-! The padded dimension (spec/44_border_extender.md R225, R230): the next multiple of N above the size. -/

namespace Sys2Proof.Machine

section
variable {w n : Nat}

theorem paddedDim_eq_succ_div_mul (hn : 1 ≤ n) : paddedDim w n = (w / n + 1) * n := by
  have hmod : w % n < n := Nat.mod_lt w hn
  have hdiv : w / n * n + w % n = w := Nat.div_add_mod' w n
  rw [paddedDim, Nat.succ_mul]
  omega

theorem lt_paddedDim (hn : 1 ≤ n) : w < paddedDim w n :=
  Nat.lt_add_of_pos_right (Nat.sub_pos_of_lt (Nat.mod_lt w hn))

/-- No multiple of `n` above `w` is smaller. -/
theorem paddedDim_le_mul (hn : 1 ≤ n) {k : Nat} (h : w < k * n) : paddedDim w n ≤ k * n := by
  rw [paddedDim_eq_succ_div_mul hn]
  exact Nat.mul_le_mul_right n (Nat.div_lt_of_lt_mul (by rwa [Nat.mul_comm]))

theorem paddedDim_le_add (w n : Nat) : paddedDim w n ≤ w + n := Nat.add_le_add_left (Nat.sub_le n _) w

end

/-- Settles O42: the padded dimension is the multiple of N after the last one at or below the size. -/
theorem paddedSizeClosedForm : Obligations.PaddedSizeClosedForm := by
  intro w n hn
  refine ⟨paddedDim_eq_succ_div_mul hn, lt_paddedDim hn, fun k => paddedDim_le_mul hn, fun hw hN => ?_⟩
  calc paddedDim w n ≤ w + n := paddedDim_le_add w n
    _ ≤ 131070 := by omega

end Sys2Proof.Machine

/-! The checks of EXTEND and CROP (spec/44_border_extender.md R227, R232), and their errors in order (R302). -/

namespace Sys2Proof.Machine

theorem dimOk_iff {d : Nat} : dimOk d = true ↔ 1 ≤ d ∧ d ≤ 65535 := decide_eq_true_iff

/-- EXTEND's dimensions and block size are in range (R227). -/
def ExtendArgs (s : State) : Prop :=
  1 ≤ aWidth s ∧ aWidth s ≤ 65535 ∧ 1 ≤ aHeight s ∧ aHeight s ≤ 65535 ∧ 1 ≤ aBsize s ∧ aBsize s ≤ 65535

/-- CROP's dimensions are in range, and the crop is no larger than the plane (R232). -/
def CropArgs (s : State) : Prop :=
  1 ≤ aWidth s ∧ aWidth s ≤ 65535 ∧ 1 ≤ aHeight s ∧ aHeight s ≤ 65535 ∧ aNeww s ≤ aWidth s ∧ aNewh s ≤ aHeight s

section
variable {s : State}

theorem extendArgs_iff : ExtendArgs s ↔ (dimOk (aWidth s) && dimOk (aHeight s) && dimOk (aBsize s)) = true := by
  simp only [ExtendArgs, Bool.and_eq_true, dimOk_iff, and_assoc]

theorem cropArgs_iff : CropArgs s ↔
    (!(dimOk (aWidth s) && dimOk (aHeight s)) || decide (aWidth s < aNeww s) || decide (aHeight s < aNewh s)) = false := by
  simp only [CropArgs, Bool.or_eq_false_iff, Bool.not_eq_false', Bool.and_eq_true, dimOk_iff, decide_eq_false_iff_not,
    Nat.not_lt, and_assoc]

theorem extendCheck_badArg (h : ¬ExtendArgs s) : extendCheck s = some .badArg := by
  rw [extendArgs_iff, Bool.not_eq_true] at h
  rw [extendCheck, firstError_cons, h]
  rfl

theorem extendCheck_capacity (hargs : ExtendArgs s) (h : aDstlen s < extendWidth s * extendHeight s) :
    extendCheck s = some .addrRange := by
  rw [extendCheck, firstError_cons, extendArgs_iff.mp hargs]
  exact if_pos (decide_eq_true h)

/-- With legal arguments and enough capacity, the checks left are those of the two buffers. -/
theorem extendCheck_of_capacity (hargs : ExtendArgs s) (h : extendWidth s * extendHeight s ≤ aDstlen s) :
    extendCheck s = firstError (buffersCheck s (extendSrc s) (extendDst s)) := by
  have hcap : ¬decide (aDstlen s < (extendDst s).len) = true := mt of_decide_eq_true (Nat.not_lt.mpr h)
  rw [extendCheck, firstError_cons, extendArgs_iff.mp hargs]
  exact if_neg hcap

theorem cropCheck_badArg (h : ¬CropArgs s) : cropCheck s = some .badArg := by
  rw [cropArgs_iff, Bool.not_eq_false] at h
  exact if_pos h

/-- With legal arguments, the checks left are those of the two buffers. -/
theorem cropCheck_of_args (hargs : CropArgs s) :
    cropCheck s = firstError (buffersCheck s (cropSrc s) (cropDst s)) := by
  rw [cropCheck, firstError_cons, cropArgs_iff.mp hargs]
  rfl

theorem extendCheck_addrRange (hargs : ExtendArgs s)
    (h : aDstlen s < extendWidth s * extendHeight s ∨ ¬fits s (aSrc0 s) (aWidth s * aHeight s) ∨
      ¬fits s (aDst s) (extendWidth s * extendHeight s)) : extendCheck s = some .addrRange := by
  by_cases hcap : aDstlen s < extendWidth s * extendHeight s
  · exact extendCheck_capacity hargs hcap
  · rw [extendCheck_of_capacity hargs (Nat.not_lt.mp hcap)]
    exact buffersCheck_addrRange (not_and_or.mpr (h.resolve_left hcap))

end

/-- Settles O45: each case names the first check that fails. -/
theorem borderErrorsInOrder : Obligations.BorderErrorsInOrder := by
  intro s
  refine ⟨fun h => exec_of_checkOf_some (extendCheck_badArg h), fun hw hw' hh hh' hn hn' => ?_,
    fun h => exec_of_checkOf_some (cropCheck_badArg h), fun hw hw' hh hh' hnw hnh => ?_⟩
  · have hargs : ExtendArgs s := ⟨hw, hw', hh, hh', hn, hn'⟩
    refine ⟨fun h => exec_of_checkOf_some (extendCheck_addrRange hargs h), fun hcap hsrc hdst hov => ?_⟩
    exact exec_of_checkOf_some ((extendCheck_of_capacity hargs hcap).trans (buffersCheck_overlap hsrc hdst hov))
  · have hcheck := cropCheck_of_args ⟨hw, hw', hh, hh', hnw, hnh⟩
    refine ⟨fun h => ?_, fun hsrc hdst hov => ?_⟩
    · exact exec_of_checkOf_some (hcheck.trans (buffersCheck_addrRange (not_and_or.mpr h)))
    · exact exec_of_checkOf_some (hcheck.trans (buffersCheck_overlap hsrc hdst hov))

end Sys2Proof.Machine

/-! The planes EXTEND and CROP write (spec/44_border_extender.md R226, R232): each sample is the copy of one byte. -/

namespace Sys2Proof.Machine

section
variable {w h x y : Nat}

theorem rowMajor_mod (y : Nat) (hx : x < w) : (y * w + x) % w = x := by
  rw [Nat.mul_add_mod', Nat.mod_eq_of_lt hx]

theorem rowMajor_div (y : Nat) (hx : x < w) : (y * w + x) / w = y := by
  rw [Nat.mul_comm, Nat.mul_add_div (by omega), Nat.div_eq_of_lt hx, Nat.add_zero]

theorem rowMajor_lt (hx : x < w) (hy : y < h) : y * w + x < w * h := by
  calc y * w + x < (y + 1) * w := by rw [Nat.succ_mul]; omega
    _ ≤ h * w := Nat.mul_le_mul_right w hy
    _ = w * h := Nat.mul_comm h w

/-- A sample of a plane copied byte by byte, with no race in it or in the byte it copies. -/
theorem read_storeBuffer_sample {s : State} {base : Nat} (src : Nat → Nat) (hx : x < w) (hy : y < h)
    (hdst : sampleAddr base w x y ∉ s.raced) (hsrc : src (y * w + x) ∉ s.raced) :
    Memory.read (storeBuffer base (w * h) (fun j => [src j]) (fun j => Memory.read s.mem (src j)) s).mem
      (sampleAddr base w x y) = Memory.read s.mem (src (y * w + x)) := by
  rw [sampleAddr, Nat.add_assoc] at hdst ⊢
  refine read_storeBuffer_inside (rowMajor_lt hx hy) _ ?_
  rintro (hraced | ⟨a, ha, hraced⟩)
  · exact hdst hraced
  · exact hsrc (List.mem_singleton.mp ha ▸ hraced)

end

section
variable {s : State} {x y : Nat}

/-- out(x, y) = in(min(x, W−1), min(y, H−1)) (R226). -/
theorem read_extendEffect (hx : x < extendWidth s) (hy : y < extendHeight s)
    (hdst : sampleAddr (aDst s) (extendWidth s) x y ∉ s.raced)
    (hsrc : extendAddr (aSrc0 s) (aWidth s) (aHeight s) x y ∉ s.raced) :
    Memory.read (extendEffect s).mem (sampleAddr (aDst s) (extendWidth s) x y) =
      Memory.read s.mem (extendAddr (aSrc0 s) (aWidth s) (aHeight s) x y) := by
  have hfrom : extendFrom s (y * extendWidth s + x) = extendAddr (aSrc0 s) (aWidth s) (aHeight s) x y := by
    rw [extendFrom, rowMajor_mod y hx, rowMajor_div y hx]
  rw [← hfrom] at hsrc ⊢
  exact read_storeBuffer_sample (extendFrom s) hx hy hdst hsrc

/-- Rows of length NEWW, copied from rows of length W (R232). -/
theorem read_cropEffect (hx : x < aNeww s) (hy : y < aNewh s) (hdst : sampleAddr (aDst s) (aNeww s) x y ∉ s.raced)
    (hsrc : sampleAddr (aSrc0 s) (aWidth s) x y ∉ s.raced) :
    Memory.read (cropEffect s).mem (sampleAddr (aDst s) (aNeww s) x y) =
      Memory.read s.mem (sampleAddr (aSrc0 s) (aWidth s) x y) := by
  have hfrom : cropFrom s (y * aNeww s + x) = sampleAddr (aSrc0 s) (aWidth s) x y := by
    rw [cropFrom, rowMajor_mod y hx, rowMajor_div y hx]
  rw [← hfrom] at hsrc ⊢
  exact read_storeBuffer_sample (cropFrom s) hx hy hdst hsrc

end

/-- Settles O43: the checks pass, and the effect is one copied plane with its dimensions. -/
theorem extendReplicatesTheEdges : Obligations.ExtendReplicatesTheEdges := by
  rintro s _ _ hw hw' hh hh' hn hn' rfl rfl hcap hsrc hdst hapart
  have hcheck : checkOf .extend s = none :=
    (extendCheck_of_capacity ⟨hw, hw', hh, hh', hn, hn'⟩ hcap).trans (buffersCheck_none hsrc hdst hapart)
  exact ⟨_, exec_of_checkOf_none (by decide) hcheck, rfl, fun a ha => read_storeBuffer_outside ha _ _ _,
    fun x hx y hy => read_extendEffect hx hy⟩

/-- Settles O44: the checks pass, and the effect is one copied plane. -/
theorem cropCopiesTheCorner : Obligations.CropCopiesTheCorner := by
  intro s hw hw' hh hh' hnw hnh hsrc hdst hapart
  have hcheck : checkOf .crop s = none :=
    (cropCheck_of_args ⟨hw, hw', hh, hh', hnw, hnh⟩).trans (buffersCheck_none hsrc hdst hapart)
  exact ⟨_, exec_of_checkOf_none (by decide) hcheck, rfl, fun a ha => read_storeBuffer_outside ha _ _ _,
    fun x hx y hy => read_cropEffect hx hy⟩

end Sys2Proof.Machine

/-! EXTEND, then CROP of its output (spec/44_border_extender.md R233): inside the plane the clamps are the identity. -/

namespace Sys2Proof.Machine

theorem extendArgs_of_check_none {s : State} (h : checkOf .extend s = none) : ExtendArgs s := by
  by_contra hbad
  cases h.symm.trans (extendCheck_badArg hbad)

theorem extendAddr_of_lt {base w h x y : Nat} (hx : x < w) (hy : y < h) :
    extendAddr base w h x y = sampleAddr base w x y := by
  rw [extendAddr, Nat.min_eq_left (by omega), Nat.min_eq_left (by omega)]

/-- Byte `k` of a plane is its sample (k mod W, k div W). -/
theorem sampleAddr_mod_div (base w k : Nat) : sampleAddr base w (k % w) (k / w) = base + k := by
  rw [sampleAddr, Nat.add_assoc, Nat.div_add_mod']

/-- The state `t` with the arguments of a CROP that takes EXTEND's output in `s`, by the dimensions EXTEND reported, back
to the W × H plane at `d`. -/
def cropBack (s t : State) (d : Word) : State :=
  { t with latched := { t.latched with
      src0 := s.latched.dst, width := t.result0, height := t.result1, neww := s.latched.width, newh := s.latched.height,
      dst := d } }

/-- The width EXTEND reports is its output's: no padded dimension overflows RESULT0. -/
theorem aWidth_cropBack_extendEffect {s : State} (hargs : ExtendArgs s) (d : Word) :
    aWidth (cropBack s (completed (extendEffect s)) d) = extendWidth s := by
  obtain ⟨-, hw, -, -, -, hn⟩ := hargs
  have hle : extendWidth s ≤ aWidth s + aBsize s := paddedDim_le_add _ _
  have hlt : extendWidth s < 2 ^ 32 := by omega
  exact (BitVec.toNat_ofNat _ _).trans (Nat.mod_eq_of_lt hlt)

/-- A sample of the plane EXTEND read stands again at its own place in the plane CROP writes. -/
theorem read_cropBack_extendEffect {s : State} {d : Word} {x y : Nat} (hargs : ExtendArgs s) (hr : s.raced = [])
    (hx : x < aWidth s) (hy : y < aHeight s) :
    Memory.read (cropEffect (cropBack s (completed (extendEffect s)) d)).mem (sampleAddr d.toNat (aWidth s) x y) =
      Memory.read s.mem (sampleAddr (aSrc0 s) (aWidth s) x y) := by
  have hfree : ∀ a, a ∉ s.raced := by simp [hr]
  have ⟨_, _, _, _, hn, _⟩ := hargs
  have hx' : x < extendWidth s := hx.trans (lt_paddedDim hn)
  have hy' : y < extendHeight s := hy.trans (lt_paddedDim hn)
  calc Memory.read (cropEffect (cropBack s (completed (extendEffect s)) d)).mem (sampleAddr d.toNat (aWidth s) x y)
    _ = Memory.read (extendEffect s).mem
          (sampleAddr (aDst s) (aWidth (cropBack s (completed (extendEffect s)) d)) x y) :=
      read_cropEffect (s := cropBack s (completed (extendEffect s)) d) hx hy (hfree _) (hfree _)
    _ = Memory.read (extendEffect s).mem (sampleAddr (aDst s) (extendWidth s) x y) := by
      rw [aWidth_cropBack_extendEffect hargs]
    _ = Memory.read s.mem (extendAddr (aSrc0 s) (aWidth s) (aHeight s) x y) :=
      read_extendEffect hx' hy' (hfree _) (hfree _)
    _ = Memory.read s.mem (sampleAddr (aSrc0 s) (aWidth s) x y) := by rw [extendAddr_of_lt hx hy]

/-- Settles O46: both commands passed their checks, and sample by sample CROP undoes EXTEND. -/
theorem extendThenCropRoundTrip : Obligations.ExtendThenCropRoundTrip := by
  intro s t u d hextend ht _ hr hcrop hu k hk
  obtain ⟨hcheck, rfl⟩ := completed_of_errCode_noError (by decide) hextend ht
  obtain ⟨-, rfl⟩ := completed_of_errCode_noError (by decide) hcrop hu
  have hpos : 0 < aWidth s := Nat.pos_of_mul_pos_right (Nat.zero_lt_of_lt hk)
  have hsample := read_cropBack_extendEffect (d := d) (extendArgs_of_check_none hcheck) hr (Nat.mod_lt k hpos)
    (Nat.div_lt_of_lt_mul hk)
  rw [sampleAddr_mod_div, sampleAddr_mod_div] at hsample
  exact hsample

end Sys2Proof.Machine

/-! The padded dimensions of a pass (spec/45_macroblock_sequencer.md R258, R260): whole macroblocks, with chroma
half of luma. -/

namespace Sys2Proof.Machine

theorem passDim_of_padding {s : State} (h : needsPadding s = true) (d n : Nat) : passDim s d n = paddedDim d n :=
  if_pos h

theorem passDim_of_aligned {s : State} (h : needsPadding s = false) (d n : Nat) : passDim s d n = d := by
  rw [passDim, h]
  rfl

/-- The padded dimension is a whole number of macroblocks, and half of it is the padded dimension of chroma: padding
takes both up to the block after the last whole one, and with none both are whole already. -/
theorem passDim_half {s : State} {d : Nat} (hpad : needsPadding s = false → d % 16 = 0) :
    passDim s d Config.mbSize % 16 = 0 ∧ passDim s (d / 2) Config.blockSize = passDim s d Config.mbSize / 2 := by
  cases hp : needsPadding s with
  | false =>
    have := hpad hp
    rw [passDim_of_aligned hp, passDim_of_aligned hp]
    omega
  | true =>
    rw [passDim_of_padding hp, passDim_of_padding hp, paddedDim, paddedDim, Config.mbSize, Config.blockSize]
    omega

theorem dims_mod_of_not_needsPadding {s : State} (h : needsPadding s = false) :
    aWidth s % 16 = 0 ∧ aHeight s % 16 = 0 := by
  have := of_decide_eq_false h
  unfold Config.mbSize at this
  omega

theorem passCwp_eq (s : State) : passWp s % 16 = 0 ∧ passCwp s = passWp s / 2 :=
  passDim_half fun h => (dims_mod_of_not_needsPadding h).1

theorem passChp_eq (s : State) : passHp s % 16 = 0 ∧ passChp s = passHp s / 2 :=
  passDim_half fun h => (dims_mod_of_not_needsPadding h).2

/-- Settles O47: each dimension on its own. -/
theorem chromaIsCoRegistered : Obligations.ChromaIsCoRegistered := by
  intro s _ _ _ _
  obtain ⟨hw, hcw⟩ := passCwp_eq s
  obtain ⟨hh, hch⟩ := passChp_eq s
  exact ⟨hcw, hch, hw, hh, fun mx _ my _ => ⟨by omega, by omega⟩⟩

end Sys2Proof.Machine

/-! ENCODE's checks (spec/45_macroblock_sequencer.md R252, R302), and how its pass begins or ends early (R254, R268). -/

namespace Sys2Proof.Machine

/-- ENCODE's dimensions are in range (R252). -/
def EncodeArgs (s : State) : Prop :=
  2 ≤ aWidth s ∧ aWidth s ≤ 65535 ∧ 2 ≤ aHeight s ∧ aHeight s ≤ 65535

/-- ENCODE's three planes are in range (R252). -/
def EncodePlanes (s : State) : Prop :=
  fits s (aSrc0 s) (aWidth s * aHeight s) ∧ fits s (aSrc1 s) (aWidth s / 2 * (aHeight s / 2)) ∧
    fits s (aSrc2 s) (aWidth s / 2 * (aHeight s / 2))

theorem encodeDimOk_iff {d : Nat} : encodeDimOk d = true ↔ 2 ≤ d ∧ d ≤ 65535 := decide_eq_true_iff

section
variable {s : State}

theorem encodeArgs_iff : EncodeArgs s ↔ (encodeDimOk (aWidth s) && encodeDimOk (aHeight s)) = true := by
  simp only [EncodeArgs, Bool.and_eq_true, encodeDimOk_iff, and_assoc]

theorem encodePlanes_iff :
    EncodePlanes s ↔ (inRange s (lumaBuffer s) && inRange s (uBuffer s) && inRange s (vBuffer s)) = true := by
  rw [Bool.and_eq_true, Bool.and_eq_true, and_assoc, lumaBuffer, uBuffer, vBuffer, inRange_iff_fits, inRange_iff_fits,
    inRange_iff_fits]
  rfl

theorem encodeCheck_badArg (h : ¬EncodeArgs s) : encodeCheck s = some .badArg := by
  rw [encodeArgs_iff, Bool.not_eq_true] at h
  rw [encodeCheck, firstError_cons, h]
  rfl

/-- With legal dimensions, the one check left is that of the planes' range. -/
theorem encodeCheck_of_args (h : EncodeArgs s) :
    encodeCheck s = if !(inRange s (lumaBuffer s) && inRange s (uBuffer s) && inRange s (vBuffer s)) then
      some .addrRange else none := by
  rw [encodeCheck, firstError_cons, encodeArgs_iff.mp h]
  rfl

theorem encodeCheck_addrRange (hargs : EncodeArgs s) (h : ¬EncodePlanes s) : encodeCheck s = some .addrRange := by
  rw [encodePlanes_iff, Bool.not_eq_true] at h
  rw [encodeCheck_of_args hargs, h]
  rfl

theorem encodeCheck_none (hargs : EncodeArgs s) (h : EncodePlanes s) : encodeCheck s = none := by
  rw [encodeCheck_of_args hargs, encodePlanes_iff.mp h]
  rfl

/-- An ENCODE that passes its checks begins its pass. -/
theorem exec_encode_begins (h : encodeCheck s = none) : exec .encode s = .next (passBegun s) := by
  rcases exec_encode s with ⟨c, hc, -⟩ | ⟨-, e⟩
  · cases h.symm.trans hc
  · exact e

end

/-- Settles O49: each case names the first check that fails. -/
theorem encodeErrorsInOrder : Obligations.EncodeErrorsInOrder := by
  intro s
  refine ⟨fun h => exec_of_checkOf_some (encodeCheck_badArg h), fun hw hw' hh hh' h => ?_⟩
  exact exec_of_checkOf_some (encodeCheck_addrRange ⟨hw, hw', hh, hh'⟩ h)

/-- Settles O48: the checks pass, and the pass begun has the tables QTBUILD builds. -/
theorem encodeBeginsAPass : Obligations.EncodeBeginsAPass := by
  intro s hw hw' hh hh' hluma hu hv
  refine ⟨passBegun s, { Sequencer.start with phase := .hdrEvents, pending := some .header },
    exec_encode_begins (encodeCheck_none ⟨hw, hw', hh, hh'⟩ ⟨hluma, hu, hv⟩), rfl, rfl, rfl, rfl, fun k hk => ?_, rfl⟩
  exact ⟨entry_scaleTable s.params.baseLuma (aQuality s) hk, entry_scaleTable s.params.baseChroma (aQuality s) hk,
    entry_zigzagTable _ hk, entry_zigzagTable _ hk⟩

/-- While an event is offered, the core waits (R271). -/
theorem passStep_pending {s : State} {q : Sequencer} {ev : WriterEvent} (hq : s.seq = some q)
    (hev : q.pending = some ev) : passStep s = s := by
  simp only [passStep, hq, hev]

theorem sinkAnswer_fail {s : State} {q : Sequencer} {ev : WriterEvent} (hq : s.seq = some q)
    (hev : q.pending = some ev) : sinkAnswer .fail s = errorEnd .writerFail s := by
  simp only [sinkAnswer, hq, hev]
  rfl

/-- Settles O54: the core waits while an event is offered, and is idle once FAIL has ended the pass. -/
theorem writerFailEndsThePass : Obligations.WriterFailEndsThePass := by
  intro s q ev hbusy hq hev
  refine ⟨?_, sinkAnswer_fail hq hev, ?_⟩
  · rw [step_withMove, takeMove, coreStep_pass hbusy hq, passStep_pending hq hev]
  · intro t ht
    cases ht
    exact ⟨rfl, rfl⟩

end Sys2Proof.Machine

/-! The standalone chain XFORM, QUANT.Y, ZIGZAG.B against `code` (spec/45_macroblock_sequencer.md R265). -/

namespace Sys2Proof.Machine

theorem raceFree_of_raced_nil {s : State} (h : s.raced = []) (b : Buffer) : raceFree s b := by simp [raceFree, h]

section
variable {s : State}

theorem kernelOrder_eight (hk : s.korder = 8) : kernelOrder s = 8 := congrArg BitVec.toNat hk

/-- The coefficients XFORM stores with an order-8 kernel, natural row-major order, by position. -/
theorem read16_xformEffect_eight (hr : s.raced = []) (hk : s.korder = 8) {n : Nat} (hn : n < 64) :
    Memory.read16 (xformEffect s).mem (aDst s + 2 * n) = xformCoeff s (n / 8) (n % 8) := by
  have horder := kernelOrder_eight hk
  have h := read16_xformEffect (raceFree_of_raced_nil hr (xformSrc s)) (raceFree_of_raced_nil hr (xformDst s))
    (u := n / 8) (v := n % 8) (by omega) (by omega)
  rwa [horder, Nat.div_add_mod'] at h

/-- A transform output that fits in i16 is stored exactly (R164). -/
theorem toInt_xformCoeff {u v : Nat} (hlo : -32768 ≤ dctEval (kernelOrder s) s.kernel (xformBlock s) u v)
    (hhi : dctEval (kernelOrder s) s.kernel (xformBlock s) u v ≤ 32767) :
    (xformCoeff s u v).toInt = dctEval (kernelOrder s) s.kernel (xformBlock s) u v :=
  BitVec.toInt_ofInt_eq_self (by decide) hlo (by omega)

end

theorem entry_code (K : Vector F64Bits 64) (B : Nat → Nat → Int) (q : Vector Byte 64) {k : Nat} (hk : k < 64) :
    entry (code K B q) k = BitVec.ofInt 16 (codeNatural K B q (ZZ k)) := by rw [code, entry_ofFn _ hk]

theorem effectOf_zigzagB (s : State) : effectOf .zigzagB s = zigzagBlockEffect s := rfl

/-- The state XFORM leaves, the block it stored now the source. -/
def transformed (s : State) : State :=
  { completed (xformEffect s) with latched := { s.latched with src0 := s.latched.dst } }

/-- The state QUANT.Y leaves after that. -/
def quantized (s : State) : State := completed (quantEffect s.qtLuma (transformed s))

/-- The samples of the order-8 block at a.SRC0, as `i8` (R83). -/
def sourceBlock (s : State) (r c : Nat) : Int := (Memory.read s.mem (aSrc0 s + r * 8 + c)).toInt

section
variable {s : State}

theorem xformBlock_eq_sourceBlock (hk : s.korder = 8) : xformBlock s = sourceBlock s := by
  have horder := kernelOrder_eight hk
  funext r c
  rw [xformBlock, horder]
  rfl

/-- Coefficient `n` that QUANT.Y leaves of the chain is the one `code` quantizes, if the transform's output fits in
i16. -/
theorem quantCoeff_transformed (hr : s.raced = []) (hk : s.korder = 8) {n : Nat} (hn : n < 64)
    (hlo : -32768 ≤ dctEval 8 s.kernel (sourceBlock s) (n / 8) (n % 8))
    (hhi : dctEval 8 s.kernel (sourceBlock s) (n / 8) (n % 8) ≤ 32767) :
    quantCoeff s.qtLuma (transformed s) n = BitVec.ofInt 16 (codeNatural s.kernel (sourceBlock s) s.qtLuma n) := by
  have hread : Memory.read16 (transformed s).mem (aSrc0 (transformed s) + 2 * n) = xformCoeff s (n / 8) (n % 8) :=
    read16_xformEffect_eight hr hk hn
  have horder := kernelOrder_eight hk
  rw [← xformBlock_eq_sourceBlock hk] at hlo hhi ⊢
  have hexact := toInt_xformCoeff (s := s) (u := n / 8) (v := n % 8) (by rwa [horder]) (by rwa [horder])
  rw [quantCoeff, hread, hexact, horder, codeNatural]

end

/-- Settles O51: from the last command to the first, each coefficient read is the one the command before stored. -/
theorem standaloneChainComputesCode : Obligations.StandaloneChainComputesCode := by
  intro s t u w _ hr hkorder hbound hxform ht hquant hu hzigzag hw k hk
  obtain ⟨-, rfl⟩ := completed_of_errCode_noError (by decide) hxform ht
  obtain ⟨-, hu : u = quantized s⟩ := completed_of_errCode_noError (by decide) hquant hu
  obtain ⟨-, rfl⟩ := completed_of_errCode_noError (by decide) hzigzag hw
  rw [hu, effectOf_zigzagB]
  have hzz := ZZ_lt k hk
  obtain ⟨hlo, hhi⟩ := hbound (ZZ k / 8) (by omega) (ZZ k % 8) (by omega)
  calc Memory.read16 (zigzagBlockEffect (quantized s)).mem (aDst s + 2 * k)
    _ = Memory.read16 (quantEffect s.qtLuma (transformed s)).mem (aDst s + 2 * ZZ k) :=
      read16_zigzagBlockEffect (s := quantized s) hk (raceFree_of_raced_nil hr _) (raceFree_of_raced_nil hr _)
    _ = quantCoeff s.qtLuma (transformed s) (ZZ k) :=
      read16_quantEffect (s := transformed s) hzz (raceFree_of_raced_nil hr _) s.qtLuma
    _ = BitVec.ofInt 16 (codeNatural s.kernel (sourceBlock s) s.qtLuma (ZZ k)) :=
      quantCoeff_transformed hr hkorder hzz hlo hhi
    _ = entry (code s.kernel (sourceBlock s) s.qtLuma) k := (entry_code _ _ _ hk).symm

end Sys2Proof.Machine

/-! Runs of listed moves (spec/60_exceptions.md R322): what the moves of an accepting sink do, one after the other. -/

namespace Sys2Proof.Machine

theorem run_one {M : Host.Core} {s t : M.State} (h : M.step s = .next t) : M.run 1 s = .next t := by
  simp only [Host.Core.run, h]

/-- A run goes on from where its first `j` steps lead. -/
theorem run_add {M : Host.Core} {j : Nat} {s t : M.State} (h : M.run j s = .next t) (k : Nat) :
    M.run (j + k) s = M.run k t := by
  induction j generalizing s with
  | zero => cases h; rw [Nat.zero_add]
  | succ j ih =>
    rw [Nat.succ_add, Host.Core.run]
    rw [Host.Core.run] at h
    cases hstep : M.step s with
    | next s' =>
      rw [hstep] at h
      exact ih h
    | fault r => rw [hstep] at h; cases h
    | refused r => rw [hstep] at h; cases h

/-- The moves `ms`, taken in order from `s`, lead to `t`, whatever moves follow them. -/
def Takes (s : State) (ms : List Move) (t : State) : Prop :=
  ∀ rest, Host.Core.run core ms.length { s with moves := ms ++ rest } = .next { t with moves := rest }

section
variable {s t u : State} {q : Sequencer} {ev : WriterEvent}

theorem takes_nil : Takes s [] s := fun _ => rfl

theorem Takes.append {ms ns : List Move} (h : Takes s ms t) (h' : Takes t ns u) : Takes s (ms ++ ns) u := by
  intro rest
  rw [List.length_append, List.append_assoc, run_add (h (ns ++ rest))]
  exact h' rest

theorem takes_single {m : Move} (h : ∀ rest, takeMove m { s with moves := rest } = .next { t with moves := rest }) :
    Takes s [m] t := fun rest => run_one (M := core) (h rest)

/-- The core's step of a pass does not read the moves that follow. -/
theorem passStep_moves (s : State) (ms : List Move) :
    passStep { s with moves := ms } = { passStep s with moves := ms } := by
  unfold passStep
  dsimp only
  split
  · rfl
  · split
    · rfl
    · split <;> rfl

theorem eventAccepted_moves (q : Sequencer) (s : State) (ms : List Move) :
    eventAccepted q { s with moves := ms } = { eventAccepted q s with moves := ms } := by
  unfold eventAccepted
  cases q.phase <;> rfl

theorem takes_core (hb : s.busy = true) (hq : s.seq = some q) : Takes s [.core] (passStep s) :=
  takes_single fun rest => by rw [← passStep_moves]; exact coreStep_pass (s := { s with moves := rest }) hb hq

theorem takes_accept (hq : s.seq = some q) (hev : q.pending = some ev) :
    Takes s [.sink .accept] (eventAccepted q s) :=
  takes_single fun rest => by
    rw [← eventAccepted_moves]
    simp only [takeMove, sinkAnswer, hq, hev]

/-- An event the core offers and the sink accepts. -/
theorem takes_offer_accept (hb : s.busy = true) (hq : s.seq = some q) (h : passStep s = offer ev q s) :
    Takes s [.core, .sink .accept] (eventAccepted { q with pending := some ev } (offer ev q s)) :=
  (h ▸ takes_core hb hq).append (takes_accept (offer_seq ev q s) rfl)

theorem eventAccepted_header (hphase : q.phase = .hdrEvents) (hhdr : q.hdr < 3) :
    eventAccepted q s = { s with seq := some { q with pending := none, hdr := q.hdr + 1 } } := by
  simp only [eventAccepted, hphase, if_pos hhdr]

theorem eventAccepted_lastHeader (hphase : q.phase = .hdrEvents) (hhdr : q.hdr = 3) :
    eventAccepted q s = { s with seq := some { q with pending := none, phase := .prepare } } := by
  simp only [eventAccepted, hphase, hhdr, Nat.lt_irrefl, if_false]

theorem eventAccepted_block (hphase : q.phase = .blocks) :
    eventAccepted q s = { s with
      blkCount := s.blkCount + 1, mbCount := if q.e = 5 then s.mbCount + 1 else s.mbCount,
      seq := some (nextPosition { q with pending := none }) } := by
  simp only [eventAccepted, hphase]

theorem eventAccepted_finish (hphase : q.phase = .finishing) : eventAccepted q s = complete s := by
  simp only [eventAccepted, hphase]

theorem withoutPending (hp : q.pending = none) : { q with pending := none } = q := by rw [← hp]

/-- A block event offered and accepted: it is recorded and counted, and the position moves on (R252, R266). -/
theorem takes_offerBlock (hb : s.busy = true) (hq : s.seq = some q) (hp : q.pending = none)
    (hphase : q.phase = .blocks) :
    Takes s [.core, .sink .accept] { s with
      seq := some (nextPosition q), stream := s.stream ++ [blockEvent s q], blkCount := s.blkCount + 1
      mbCount := if q.e = 5 then s.mbCount + 1 else s.mbCount } := by
  have hoffer : passStep s = offer (blockEvent s q) q s := by simp only [passStep, hq, hp, hphase]
  have h := takes_offer_accept hb hq hoffer
  rw [eventAccepted_block (q := { q with pending := some (blockEvent s q) }) hphase] at h
  dsimp only at h
  rwa [withoutPending hp] at h

/-- FINISH offered and accepted: it is recorded, and the command completes (R266). -/
theorem takes_offerFinish (hb : s.busy = true) (hq : s.seq = some q) (hp : q.pending = none)
    (hphase : q.phase = .finishing) :
    Takes s [.core, .sink .accept] (complete { s with stream := s.stream ++ [.finish] }) := by
  have hoffer : passStep s = offer .finish q s := by simp only [passStep, hq, hp, hphase]
  have h := takes_offer_accept hb hq hoffer
  rwa [eventAccepted_finish (q := { q with pending := some .finish }) hphase] at h

theorem EncodeReady.check (h : EncodeReady s) : encodeCheck s = none :=
  encodeCheck_none ⟨h.width.1, h.width.2, h.height.1, h.height.2⟩ ⟨h.luma, h.u, h.v⟩

theorem takes_encode (h : EncodeReady s) : Takes s [.core] (passBegun s) :=
  takes_single fun rest =>
    (coreStep_run (s := { s with moves := rest }) h.busy h.fresh h.word).trans
      (exec_encode_begins (s := { s with moves := rest }) h.check)

end

end Sys2Proof.Machine

/-! The samples a pass reads (spec/45_macroblock_sequencer.md R257, R258, R263 to R265), as bytes of data memory: its
block events are those of the spec's stream. -/

namespace Sys2Proof.Machine

theorem dot_congr {n : Nat} {x x' y y' : Nat → F64} (hx : ∀ k < n, x k = x' k) (hy : ∀ k < n, y k = y' k) :
    dot n x y = dot n x' y' :=
  List.foldl_ext _ _ _ fun acc k hk => by rw [hx k (List.mem_range.mp hk), hy k (List.mem_range.mp hk)]

/-- The transform reads the samples of its block alone (R162). -/
theorem dctEval_congr {n : Nat} {B B' : Nat → Nat → Int} (h : ∀ r < n, ∀ c < n, B r c = B' r c)
    (K : Vector F64Bits 64) (u v : Nat) : dctEval n K B u v = dctEval n K B' u v :=
  congrArg round64 <| dot_congr (fun _ _ => rfl) fun r hr =>
    dot_congr (fun c hc => congrArg F64.ofInt (h r hr c hc)) fun _ _ => rfl

theorem code_congr {B B' : Nat → Nat → Int} (h : ∀ r < 8, ∀ c < 8, B r c = B' r c) (K : Vector F64Bits 64)
    (q : Vector Byte 64) : code K B q = code K B' q := by
  simp only [code, codeNatural, dctEval_congr h]

/-- The level shift leaves the sample less 128, with no overflow (R16, R257). -/
theorem sampleOf_levelShift (b : Byte) : sampleOf (levelShift b) = (b.toNat : Int) - 128 := by
  have hb := b.isLt
  rw [sampleOf, levelShift, BitVec.toInt_eq_toNat_cond, BitVec.toNat_sub]
  simp only [BitVec.toNat_ofNat]
  split <;> omega

section
variable {s : State} {x y : Nat}

/-- A clamped coordinate lies in the plane (R226). -/
theorem min_sub_one_lt {a n : Nat} (hn : 0 < n) : min a (n - 1) < n := by omega

/-- A sample of the padded luma plane that PREPARE computes (R226, R257). -/
theorem sampleOf_yp (hw : 0 < aWidth s) (hh : 0 < aHeight s) (hx : x < passWp s) (hy : y < passHp s) (q : Sequencer) :
    sampleOf ((preparePlanes s q).yp.sample x y) = specLuma s x y := by
  have hsample : (preparePlanes s q).yp.sample x y =
      levelShift (Memory.read s.mem (extendAddr (aSrc0 s) (aWidth s) (aHeight s) x y)) :=
    (Plane.sample_extendTo _ hx hy).trans (Plane.sample_shifted_load _ _ (min_sub_one_lt hw) (min_sub_one_lt hh))
  rw [hsample, sampleOf_levelShift]
  rfl

/-- A sample of a padded chroma plane (R226). -/
theorem sampleOf_chroma (hw : 0 < chromaWidth s) (hh : 0 < chromaHeight s) (base : Nat) (hx : x < passCwp s)
    (hy : y < passChp s) :
    sampleOf (((Plane.load s.mem base (chromaWidth s) (chromaHeight s)).extendTo (passCwp s) (passChp s)).sample x y) =
      specChroma s base x y :=
  congrArg sampleOf ((Plane.sample_extendTo _ hx hy).trans
    (Plane.sample_load _ _ (min_sub_one_lt hw) (min_sub_one_lt hh)))

end

/-- The block event at index `e` of macroblock (mx, my) in the spec's stream (R252). -/
def specBlock (s : State) (mx my e : Nat) : WriterEvent :=
  if e < 4 then
    .blockY (code (kernelOf 8) (fun r c => specLuma s (16 * mx + 8 * (e % 2) + c) (16 * my + 8 * (e / 2) + r))
      (scaleTable s.params.baseLuma (aQuality s)))
  else if e = 4 then
    .blockU (code (kernelOf 8) (fun r c => specChroma s (aSrc1 s) (8 * mx + c) (8 * my + r))
      (scaleTable s.params.baseChroma (aQuality s)))
  else
    .blockV (code (kernelOf 8) (fun r c => specChroma s (aSrc2 s) (8 * mx + c) (8 * my + r))
      (scaleTable s.params.baseChroma (aQuality s)))

theorem specMacroblock_eq (s : State) (mx my : Nat) :
    specMacroblock s mx my = (List.range 6).flatMap fun e => [specBlock s mx my e] := rfl

/-- Two nested walks are one, by position (R261). -/
theorem flatMap_range_flatMap_range {α : Type} (f : Nat → Nat → List α) {w : Nat} (hw : 0 < w) (h : Nat) :
    ((List.range h).flatMap fun y => (List.range w).flatMap (f y)) =
      (List.range (w * h)).flatMap fun n => f (n / w) (n % w) := by
  induction h with
  | zero => rfl
  | succ h ih =>
    rw [List.range_succ, List.flatMap_append, ih, Nat.mul_succ, List.range_add, List.flatMap_append, List.flatMap_map,
      List.flatMap_singleton]
    congr 1
    refine List.flatMap_congr fun x hx => ?_
    rw [Nat.mul_add_div hw, Nat.mul_add_mod, Nat.div_eq_of_lt (List.mem_range.mp hx),
      Nat.mod_eq_of_lt (List.mem_range.mp hx), Nat.add_zero]

/-- Block event `n` of the spec's stream, the header events not counted. -/
def specBlockAt (s : State) (n : Nat) : WriterEvent :=
  specBlock s (n / 6 % (passWp s / 16)) (n / 6 / (passWp s / 16)) (n % 6)

/-- The block events of the spec's stream, one by one. -/
theorem specBlocks_eq {s : State} (hw : 0 < passWp s / 16) :
    ((List.range (passHp s / 16)).flatMap fun my =>
      (List.range (passWp s / 16)).flatMap fun mx => specMacroblock s mx my) =
      (List.range (6 * (passWp s / 16) * (passHp s / 16))).map (specBlockAt s) := by
  rw [flatMap_range_flatMap_range (fun my mx => specMacroblock s mx my) hw]
  simp only [specMacroblock_eq]
  rw [flatMap_range_flatMap_range
    (fun m e => [specBlock s (m % (passWp s / 16)) (m / (passWp s / 16)) e]) (by omega : 0 < 6),
    Nat.mul_assoc, List.map_eq_flatMap]
  rfl

end Sys2Proof.Machine

/-! The walk of an accepting pass (spec/45_macroblock_sequencer.md R252, R261, R266): the state after the header events,
after each block event, and at its end. -/

namespace Sys2Proof.Machine

/-- The header events of the spec's stream (R255). -/
def specHeader (s : State) : List WriterEvent :=
  [.header,
    .qtables (zigzagTable (scaleTable s.params.baseLuma (aQuality s)))
      (zigzagTable (scaleTable s.params.baseChroma (aQuality s))),
    .imageInfo (BitVec.ofNat 16 (aWidth s)) (BitVec.ofNat 16 (aHeight s)), .huffman]

/-- The sequencer in phase HDR_EVENTS with `k` header events accepted. -/
def headerPosition (k : Nat) : Sequencer := { Sequencer.start with phase := .hdrEvents, hdr := k }

/-- The sequencer after the last header event. -/
def preparing : Sequencer := { Sequencer.start with phase := .prepare, hdr := 3 }

/-- The state of the pass of `s` before its kernel is built, at the sequencer's position `q` with the events `evs`
offered. -/
def headerState (s : State) (q : Sequencer) (evs : List WriterEvent) : State :=
  { buildTables (beginPass s) with seq := some q, stream := s.stream ++ evs }

/-- The sequencer as the walk begins: the planes prepared, at the first block of the first macroblock. -/
def firstBlock (s : State) : Sequencer := { preparePlanes s preparing with phase := .blocks }

/-- The state of the pass of `s` after `n` block events, at the sequencer's position `q` with the counters `blk` and
`mb`: all else the pass has touched by then is settled. -/
def walkState (s : State) (n : Nat) (q : Sequencer) (blk mb : Word) : State :=
  { buildKernel 8 (buildTables s) with
    seq := some q, blkCount := blk, mbCount := mb
    stream := s.stream ++ (specHeader s ++ (List.range n).map (specBlockAt s)) }

/-- The moves before the walk: the header events, PREPARE and KERNEL_BUILD. -/
def headerMoves : List Move :=
  [.core, .sink .accept, .core, .sink .accept, .core, .sink .accept, .core, .sink .accept, .core, .core]

section
variable {s : State}

/-- An event accepted in the header phase is recorded. -/
theorem headerState_append (q : Sequencer) (evs : List WriterEvent) (ev : WriterEvent) :
    headerState s q (evs ++ [ev]) =
      { buildTables (beginPass s) with seq := some q, stream := s.stream ++ evs ++ [ev] } := by
  rw [headerState, List.append_assoc]

theorem takes_firstHeader (h : EncodeReady s) :
    Takes s [.core, .sink .accept] (headerState s (headerPosition 1) [.header]) :=
  (takes_encode h).append (takes_accept (s := passBegun s)
    (q := { headerPosition 0 with pending := some .header }) (ev := .header) rfl rfl)

theorem takes_header (hb : s.busy = true) {k : Nat} (hk : k < 3) (evs : List WriterEvent) :
    Takes (headerState s (headerPosition k) evs) [.core, .sink .accept]
      (headerState s (headerPosition (k + 1)) (evs ++ [headerEvent (buildTables s) k])) := by
  have h := takes_offer_accept (s := headerState s (headerPosition k) evs) (q := headerPosition k)
    (ev := headerEvent (buildTables s) k) hb rfl rfl
  rw [eventAccepted_header rfl hk] at h
  rwa [headerState_append]

theorem takes_lastHeader (hb : s.busy = true) (evs : List WriterEvent) :
    Takes (headerState s (headerPosition 3) evs) [.core, .sink .accept]
      (headerState s preparing (evs ++ [.huffman])) := by
  have h := takes_offer_accept (s := headerState s (headerPosition 3) evs) (q := headerPosition 3)
    (ev := .huffman) hb rfl rfl
  rw [eventAccepted_lastHeader rfl rfl] at h
  rwa [headerState_append]

theorem takes_prepare (hb : s.busy = true) (evs : List WriterEvent) :
    Takes (headerState s preparing evs) [.core] (headerState s (preparePlanes s preparing) evs) :=
  takes_core (q := preparing) hb rfl

theorem takes_kernelBuild (hb : s.busy = true) (evs : List WriterEvent) :
    Takes (headerState s (preparePlanes s preparing) evs) [.core]
      { buildKernel 8 (headerState s (preparePlanes s preparing) evs) with seq := some (firstBlock s) } :=
  takes_core (q := preparePlanes s preparing) hb rfl

theorem takes_headerMoves (h : EncodeReady s) : Takes s headerMoves (walkState s 0 (firstBlock s) 0 0) :=
  (takes_firstHeader h).append <| (takes_header h.busy (k := 1) (by omega) _).append <|
    (takes_header h.busy (k := 2) (by omega) _).append <| (takes_lastHeader h.busy _).append <|
    (takes_prepare h.busy _).append (takes_kernelBuild h.busy _)

end

section
variable {s : State} {q : Sequencer} {n : Nat} {blk mb : Word}

/-- The position moves; the planes, the grid and the pending event stay. -/
theorem nextPosition_frame (q : Sequencer) :
    nextPosition q = { q with
      phase := (nextPosition q).phase, mx := (nextPosition q).mx, my := (nextPosition q).my
      e := (nextPosition q).e } := by
  unfold nextPosition
  split_ifs <;> rfl

theorem nextPosition_phase (h : q.phase = .blocks) :
    (nextPosition q).phase = .blocks ∨ (nextPosition q).phase = .finishing := by
  unfold nextPosition
  split_ifs <;> simp [h]

/-- The position of the walk of `s` after `n` block events: the planes PREPARE computed, no event pending, and what the
invariant of a pass says of the position and the counters. -/
structure Walking (s : State) (n : Nat) (q : Sequencer) (blk mb : Word) : Prop where
  pending : q.pending = none
  yp : q.yp = (firstBlock s).yp
  up : q.up = (firstBlock s).up
  vp : q.vp = (firstBlock s).vp
  phase : q.phase = .blocks ∨ q.phase = .finishing
  count : blk.toNat = n
  ok : sequencerOk (walkState s n q blk mb) q

theorem walking_zero (h : EncodeReady s) : Walking s 0 (firstBlock s) 0 0 := by
  obtain ⟨⟨hw, -⟩, hh, -⟩ := grid_bounds h.check
  exact ⟨rfl, rfl, rfl, rfl, .inl rfl, rfl, rfl, rfl, ⟨rfl, rfl, rfl, rfl, rfl, rfl⟩, hw, hh, Nat.zero_le 5,
    by simp [walkState, firstBlock, preparePlanes], by simp [walkState, firstBlock, preparePlanes],
    pendingKind_none rfl _⟩

/-- With no race, a block event carries `code` of its block (R265). -/
theorem blockPayload_of_raced_nil {u : State} (hr : u.raced = []) (q : Sequencer) :
    blockPayload u q =
      code u.kernel (planeBlock (currentPlane q) (currentOrigin q).1 (currentOrigin q).2) (currentTable u q) := by
  have hraced : blockRaced u q = false := by rw [blockRaced, hr]; rfl
  rw [blockPayload, hraced]
  rfl

/-- The block event offered at a position inside the grid is the spec's. -/
theorem blockEvent_walkState (h : EncodeReady s) (hw : Walking s n q blk mb) (hmx : q.mx < passWp s / 16)
    (hmy : q.my < passHp s / 16) (he : q.e ≤ 5) :
    blockEvent (walkState s n q blk mb) q = specBlock s q.mx q.my q.e := by
  obtain ⟨hw2, -⟩ := h.width
  obtain ⟨hh2, -⟩ := h.height
  have hcw : 0 < chromaWidth s := by unfold chromaWidth; omega
  have hch : 0 < chromaHeight s := by unfold chromaHeight; omega
  have hcwp := (passCwp_eq s).2
  have hchp := (passChp_eq s).2
  have hpayload := blockPayload_of_raced_nil (u := walkState s n q blk mb) h.noRace q
  rw [blockEvent, hpayload, specBlock]
  split_ifs with h4 h5
  · simp only [currentPlane, currentOrigin, currentTable, if_pos h4, hw.yp]
    refine congrArg WriterEvent.blockY (code_congr (fun r hr c hc => ?_) _ _)
    exact sampleOf_yp (by omega) (by omega) (by simp only [lumaOrigin]; omega) (by simp only [lumaOrigin]; omega)
      preparing
  · simp only [currentPlane, currentOrigin, currentTable, if_neg h4, if_pos h5, hw.up]
    refine congrArg WriterEvent.blockU (code_congr (fun r hr c hc => ?_) _ _)
    exact sampleOf_chroma hcw hch _ (by simp only [chromaOrigin]; omega) (by simp only [chromaOrigin]; omega)
  · simp only [currentPlane, currentOrigin, currentTable, if_neg h4, if_neg h5, hw.vp]
    refine congrArg WriterEvent.blockV (code_congr (fun r hr c hc => ?_) _ _)
    exact sampleOf_chroma hcw hch _ (by simp only [chromaOrigin]; omega) (by simp only [chromaOrigin]; omega)

end

end Sys2Proof.Machine

/-! An accepting pass from its first move to its last (spec/45_macroblock_sequencer.md R252, R266): the walk by induction
on the block events, and the state the pass ends in. -/

namespace Sys2Proof.Machine

section
variable {s : State} {q : Sequencer} {n : Nat} {blk mb : Word}

/-- In phase BLOCKS the position is that of block event `n` (R261). -/
theorem Walking.position (hw : Walking s n q blk mb) (hphase : q.phase = .blocks) :
    (q.mx < passWp s / 16 ∧ q.my < passHp s / 16 ∧ q.e ≤ 5) ∧ n = 6 * (q.my * (passWp s / 16) + q.mx) + q.e := by
  have hok := hw.ok
  simp only [sequencerOk, hphase] at hok
  obtain ⟨-, -, ⟨-, -, -, -, hmbw, hmbh⟩, hmx, hmy, he, hblk, -, -⟩ := hok
  rw [hmbw] at hmx hblk
  rw [hmbh] at hmy
  exact ⟨⟨hmx, hmy, he⟩, hw.count.symm.trans hblk⟩

/-- In phase FINISHING every macroblock's six blocks are counted (R267). -/
theorem Walking.counts (hw : Walking s n q blk mb) (hphase : q.phase = .finishing) :
    n = 6 * (passWp s / 16 * (passHp s / 16)) ∧ mb.toNat = passWp s / 16 * (passHp s / 16) := by
  have hok := hw.ok
  simp only [sequencerOk, hphase] at hok
  obtain ⟨-, -, ⟨-, -, -, -, hmbw, hmbh⟩, hblk, hmb, -⟩ := hok
  rw [hmbw, hmbh] at hblk hmb
  exact ⟨hw.count.symm.trans hblk, hmb⟩

theorem Walking.phase_blocks (hw : Walking s n q blk mb) (hn : n < 6 * (passWp s / 16) * (passHp s / 16)) :
    q.phase = .blocks := by
  refine hw.phase.resolve_right fun hphase => ?_
  have := (hw.counts hphase).1
  rw [Nat.mul_assoc] at hn
  omega

theorem Walking.phase_finishing (hw : Walking s (6 * (passWp s / 16) * (passHp s / 16)) q blk mb) :
    q.phase = .finishing := by
  refine hw.phase.resolve_left fun hphase => ?_
  obtain ⟨⟨hmx, hmy, he⟩, hn⟩ := hw.position hphase
  have := rowMajor_lt hmx hmy
  rw [Nat.mul_assoc] at hn
  omega

theorem Walking.blockEvent_eq (h : EncodeReady s) (hw : Walking s n q blk mb) (hphase : q.phase = .blocks) :
    blockEvent (walkState s n q blk mb) q = specBlockAt s n := by
  obtain ⟨⟨hmx, hmy, he⟩, hn⟩ := hw.position hphase
  have hdiv : n / 6 = q.my * (passWp s / 16) + q.mx := by omega
  have hmod : n % 6 = q.e := by omega
  rw [blockEvent_walkState h hw hmx hmy he, specBlockAt, hdiv, hmod, rowMajor_mod _ hmx, rowMajor_div _ hmx]

theorem walkState_succ (s : State) (n : Nat) (q : Sequencer) (blk mb : Word) :
    walkState s (n + 1) q blk mb =
      { walkState s n q blk mb with stream := (walkState s n q blk mb).stream ++ [specBlockAt s n] } := by
  simp only [walkState, List.range_succ, List.map_append, List.map_singleton, List.append_assoc]

/-- One more block event offered and accepted (R252, R266). -/
theorem Walking.takes_block (h : EncodeReady s) (hw : Walking s n q blk mb) (hphase : q.phase = .blocks) :
    Takes (walkState s n q blk mb) [.core, .sink .accept]
      (walkState s (n + 1) (nextPosition q) (blk + 1) (if q.e = 5 then mb + 1 else mb)) := by
  rw [walkState_succ, ← hw.blockEvent_eq h hphase]
  exact takes_offerBlock (s := walkState s n q blk mb) h.busy rfl hw.pending hphase

/-- The block event accepted, the walk stands at the next position with the counters to match (R39). -/
theorem Walking.next (h : EncodeReady s) (hw : Walking s n q blk mb) (hphase : q.phase = .blocks) :
    Walking s (n + 1) (nextPosition q) (blk + 1) (if q.e = 5 then mb + 1 else mb) := by
  have hok := sequencerOk_nextPosition (s := walkState s n q blk mb) h.check hphase hw.ok
  rw [withoutPending hw.pending] at hok
  have hframe := nextPosition_frame q
  refine ⟨(congrArg Sequencer.pending hframe).trans hw.pending, (congrArg Sequencer.yp hframe).trans hw.yp,
    (congrArg Sequencer.up hframe).trans hw.up, (congrArg Sequencer.vp hframe).trans hw.vp, nextPosition_phase hphase,
    ?_, hok⟩
  obtain ⟨⟨hmx, hmy, he⟩, hn⟩ := hw.position hphase
  obtain ⟨⟨-, hwide⟩, -, hhigh⟩ := grid_bounds h.check
  have := raster_lt hmx hmy hwide hhigh
  have hcount := hw.count
  rw [toNat_add_one (by omega), hcount]

/-- The walk up to block event `n`, by induction on `n`. -/
theorem exists_walking (h : EncodeReady s) {n : Nat} (hn : n ≤ 6 * (passWp s / 16) * (passHp s / 16)) :
    ∃ q blk mb, Walking s n q blk mb ∧
      Takes (walkState s 0 (firstBlock s) 0 0) ((List.range n).flatMap fun _ => [.core, .sink .accept])
        (walkState s n q blk mb) := by
  induction n with
  | zero => exact ⟨_, _, _, walking_zero h, takes_nil⟩
  | succ n ih =>
    obtain ⟨q, blk, mb, hw, htakes⟩ := ih (by omega)
    have hphase := hw.phase_blocks hn
    refine ⟨_, _, _, hw.next h hphase, ?_⟩
    rw [List.range_succ, List.flatMap_append, List.flatMap_singleton]
    exact htakes.append (hw.takes_block h hphase)

/-- The state an accepting pass of `s` ends in. -/
def encoded (s : State) : State :=
  completed { buildKernel 8 (buildTables s) with
    stream := s.stream ++ specStream s
    mbCount := BitVec.ofNat 32 (passWp s / 16 * (passHp s / 16))
    blkCount := BitVec.ofNat 32 (6 * (passWp s / 16 * (passHp s / 16))) }

theorem word_eq_ofNat {w : Word} {n : Nat} (h : w.toNat = n) : w = BitVec.ofNat 32 n := by
  rw [← h, BitVec.ofNat_toNat, BitVec.setWidth_eq]

theorem specStream_eq (h : EncodeReady s) :
    specStream s =
      specHeader s ++ (List.range (6 * (passWp s / 16) * (passHp s / 16))).map (specBlockAt s) ++ [.finish] := by
  rw [← specBlocks_eq (grid_bounds h.check).1.1]
  rfl

/-- FINISH offered and accepted completes the pass (R266). -/
theorem Walking.takes_finish (h : EncodeReady s) (hw : Walking s (6 * (passWp s / 16) * (passHp s / 16)) q blk mb) :
    Takes (walkState s (6 * (passWp s / 16) * (passHp s / 16)) q blk mb) [.core, .sink .accept] (encoded s) := by
  have hphase := hw.phase_finishing
  obtain ⟨hn, hmb⟩ := hw.counts hphase
  rw [encoded, specStream_eq h, ← word_eq_ofNat hmb, ← word_eq_ofNat (hw.count.trans hn), ← List.append_assoc]
  exact takes_offerFinish (s := walkState s _ q blk mb) h.busy rfl hw.pending hphase

/-- An accepting pass, from its first move to its last. -/
theorem takes_acceptingPass (h : EncodeReady s) : Takes s (acceptingPass s) (encoded s) := by
  obtain ⟨q, blk, mb, hw, hwalk⟩ := exists_walking h le_rfl
  exact ((takes_headerMoves h).append hwalk).append (hw.takes_finish h)

theorem run_acceptingPass (h : EncodeReady s) :
    Host.Core.run core (acceptingPass s).length { s with moves := acceptingPass s } =
      .next { encoded s with moves := [] } := by
  have hrun := takes_acceptingPass h []
  rwa [List.append_nil] at hrun

end

/-- Settles O50: the header events, the walk and FINISH, each offered and accepted, lead to the state named. -/
theorem encodePassEmitsTheSpecStream : Obligations.EncodePassEmitsTheSpecStream := by
  intro s hb hseq hword hr hw hw' hh hh' hluma hu hv
  exact run_acceptingPass ⟨hb, hseq, hword, hr, ⟨hw, hw'⟩, ⟨hh, hh'⟩, hluma, hu, hv⟩

end Sys2Proof.Machine

/-! What the spec's stream holds (spec/45_macroblock_sequencer.md R267), and what it depends on (R273). -/

namespace Sys2Proof.Machine

section
variable {s : State}

/-- The kinds of the block events of one macroblock, in their order (R262 to R264). -/
def macroblockKinds : List (BitVec 3) := [4, 4, 4, 4, 5, 6]

theorem map_kind_specMacroblock (s : State) (mx my : Nat) :
    (specMacroblock s mx my).map WriterEvent.kind = macroblockKinds := rfl

/-- Each header event and FINISH occurs once around the walk, and never in it. -/
theorem count_headerKind :
    ∀ k ∈ [0#3, 1#3, 2#3, 3#3, 7#3], [0, 1, 2, 3, 7].count k = 1 ∧ macroblockKinds.count k = 0 := by decide

/-- The kinds of the events of the spec's stream, in their order (R269). -/
theorem map_kind_specStream (h : EncodeReady s) :
    (specStream s).map WriterEvent.kind =
      [0, 1, 2, 3] ++ ((List.range (passWp s / 16 * (passHp s / 16))).flatMap fun _ => macroblockKinds) ++ [7] := by
  rw [specStream, flatMap_range_flatMap_range (fun my mx => specMacroblock s mx my) (grid_bounds h.check).1.1]
  simp only [List.map_append, List.map_flatMap, map_kind_specMacroblock]
  rfl

/-- How many events of kind `k` the spec's stream holds. -/
theorem countP_kind_specStream (h : EncodeReady s) (k : BitVec 3) :
    (specStream s).countP (fun ev => ev.kind == k) =
      [0, 1, 2, 3, 7].count k + passWp s / 16 * (passHp s / 16) * macroblockKinds.count k := by
  have hmap : (specStream s).countP (fun ev => ev.kind == k) = ((specStream s).map WriterEvent.kind).count k := by
    rw [List.count_eq_countP, List.countP_map]
    rfl
  have hhead : [0, 1, 2, 3, 7].count k = [0, 1, 2, 3].count k + [7].count k :=
    List.count_append (l₁ := [0, 1, 2, 3]) (l₂ := [7])
  have hwalk : (List.count k ∘ fun _ : Nat => macroblockKinds) = fun _ => macroblockKinds.count k := rfl
  rw [hmap, map_kind_specStream h, List.count_append, List.count_append, List.count_flatMap, hwalk, List.map_const',
    List.sum_replicate, List.length_range, smul_eq_mul, hhead]
  omega

theorem length_specStream (h : EncodeReady s) :
    (specStream s).length = 4 + 6 * (passWp s / 16 * (passHp s / 16)) + 1 := by
  have hwalk : (fun _ : Nat => macroblockKinds.length) = fun _ => 6 := rfl
  rw [← List.length_map (f := WriterEvent.kind), map_kind_specStream h, List.length_append, List.length_append,
    List.length_flatMap, hwalk, List.map_const', List.sum_replicate, List.length_range, smul_eq_mul, Nat.mul_comm 6]
  rfl

end

/-- Settles O52: the run's stream is the spec's, whose events are counted kind by kind. -/
theorem encodeEventCount : Obligations.EncodeEventCount := by
  rintro s _ h rfl
  obtain ⟨⟨-, hw⟩, -, hh⟩ := grid_bounds h.check
  have hgrid : passWp s / 16 * (passHp s / 16) ≤ 4096 * 4096 := Nat.mul_le_mul hw hh
  refine ⟨_, specStream s, run_acceptingPass h, rfl, rfl, rfl, length_specStream h, fun k hk => ?_, ?_, ?_, ?_,
    Nat.mod_eq_of_lt (by omega), Nat.mod_eq_of_lt (by omega)⟩
  all_goals rw [countP_kind_specStream h]
  · rw [(count_headerKind k hk).1, (count_headerKind k hk).2, Nat.mul_zero]
  · rw [show [0, 1, 2, 3, 7].count 4#3 = 0 by decide, show macroblockKinds.count 4#3 = 4 by decide, Nat.zero_add,
      Nat.mul_comm]
  · rw [show [0, 1, 2, 3, 7].count 5#3 = 0 by decide, show macroblockKinds.count 5#3 = 1 by decide, Nat.zero_add,
      Nat.mul_one]
  · rw [show [0, 1, 2, 3, 7].count 6#3 = 0 by decide, show macroblockKinds.count 6#3 = 1 by decide, Nat.zero_add,
      Nat.mul_one]

/-- A sample at clamped coordinates is a byte of the plane (R226). -/
theorem clamped_lt {w h : Nat} (hw : 0 < w) (hh : 0 < h) (x y : Nat) :
    min y (h - 1) * w + min x (w - 1) < w * h := rowMajor_lt (min_sub_one_lt hw) (min_sub_one_lt hh)

/-- Two states hold the same image for ENCODE: the sizes, the clamped quality, the base tables and the bytes of the
three planes (R273). -/
structure SameImage (s t : State) : Prop where
  width : aWidth s = aWidth t
  height : aHeight s = aHeight t
  quality : clampQuality (aQuality s) = clampQuality (aQuality t)
  baseLuma : s.params.baseLuma = t.params.baseLuma
  baseChroma : s.params.baseChroma = t.params.baseChroma
  luma : ∀ k < aWidth s * aHeight s, Memory.read s.mem (aSrc0 s + k) = Memory.read t.mem (aSrc0 t + k)
  u : ∀ k < chromaWidth s * chromaHeight s, Memory.read s.mem (aSrc1 s + k) = Memory.read t.mem (aSrc1 t + k)
  v : ∀ k < chromaWidth s * chromaHeight s, Memory.read s.mem (aSrc2 s + k) = Memory.read t.mem (aSrc2 t + k)

theorem scaleTable_congr {q q' : Int} (h : clampQuality q = clampQuality q') (base : Vector Byte 64) :
    scaleTable base q = scaleTable base q' := by
  simp only [scaleTable, qq_of_clampQuality_eq _ h]

section
variable {s t : State}

theorem SameImage.chromaWidth_eq (h : SameImage s t) : chromaWidth s = chromaWidth t := congrArg (· / 2) h.width

theorem SameImage.chromaHeight_eq (h : SameImage s t) : chromaHeight s = chromaHeight t := congrArg (· / 2) h.height

theorem SameImage.passDim_eq (h : SameImage s t) : passDim s = passDim t := by
  have hpad : needsPadding s = needsPadding t := by rw [needsPadding, needsPadding, h.width, h.height]
  funext d n
  rw [passDim, passDim, hpad]

theorem SameImage.specLuma_eq (h : SameImage s t) (hs : EncodeReady s) : specLuma s = specLuma t := by
  obtain ⟨hw, -⟩ := hs.width
  obtain ⟨hh, -⟩ := hs.height
  funext x y
  have hbyte := h.luma _ (clamped_lt (by omega : 0 < aWidth s) (by omega : 0 < aHeight s) x y)
  rw [h.width, h.height] at hbyte
  simp only [specLuma, Nat.add_assoc, h.width, h.height, hbyte]

/-- A chroma plane with the same bytes gives the same samples. -/
theorem SameImage.specChroma_eq (h : SameImage s t) (hs : EncodeReady s) {base base' : Nat}
    (hbytes : ∀ k < chromaWidth s * chromaHeight s, Memory.read s.mem (base + k) = Memory.read t.mem (base' + k)) :
    specChroma s base = specChroma t base' := by
  have hw : 0 < chromaWidth s := Nat.div_pos hs.width.1 Nat.two_pos
  have hh : 0 < chromaHeight s := Nat.div_pos hs.height.1 Nat.two_pos
  funext x y
  have hbyte := hbytes _ (clamped_lt hw hh x y)
  rw [h.chromaWidth_eq, h.chromaHeight_eq] at hbyte
  simp only [specChroma, Nat.add_assoc, h.chromaWidth_eq, h.chromaHeight_eq, hbyte]

theorem SameImage.specStream_eq (h : SameImage s t) (hs : EncodeReady s) : specStream s = specStream t := by
  have hwp : passWp s = passWp t := by rw [passWp, passWp, h.passDim_eq, h.width]
  have hhp : passHp s = passHp t := by rw [passHp, passHp, h.passDim_eq, h.height]
  have hluma := scaleTable_congr h.quality s.params.baseLuma
  have hchroma := scaleTable_congr h.quality s.params.baseChroma
  rw [h.baseLuma] at hluma
  rw [h.baseChroma] at hchroma
  simp only [specStream, specMacroblock, h.baseLuma, h.baseChroma, hluma, hchroma, hwp, hhp, h.width, h.height,
    h.specLuma_eq hs, h.specChroma_eq hs h.u, h.specChroma_eq hs h.v]

end

/-- Settles O53: each run offers the spec's stream, which reads the image alone. -/
theorem encodeStreamDependsOnTheImageOnly : Obligations.EncodeStreamDependsOnTheImageOnly := by
  intro s t hs ht hw hh hq hluma hchroma hy huv
  have himage : SameImage s t :=
    ⟨hw, hh, hq, hluma, hchroma, hy, fun k hk => (huv k hk).1, fun k hk => (huv k hk).2⟩
  refine ⟨_, _, specStream s, run_acceptingPass hs, run_acceptingPass ht, rfl, ?_⟩
  rw [himage.specStream_eq hs]
  rfl

end Sys2Proof.Machine

/-! The ends of a command and STATUS as the agents' steps leave them (R305 to R314, R320): what each agent can do to BUSY,
DONE, ERR, ERRCODE, OVR and IEN. -/

namespace Sys2Proof.Machine

/-- A step is one agent's move: the oldest listed, or the core's when none is. -/
theorem exists_takeMove {s t : State} (h : step s = .next t) :
    ∃ m rest, takeMove m { s with moves := rest } = .next t ∧ (s.moves = m :: rest ∨ s.moves = [] ∧ m = .core) := by
  cases hm : s.moves with
  | nil => exact ⟨.core, s.moves, (step_nil hm).symm.trans h, .inr ⟨rfl, rfl⟩⟩
  | cons m rest => exact ⟨m, rest, (step_cons hm).symm.trans h, .inl rfl⟩

/-- A host access that does not stop the run is a CSR write, a data write or a read. -/
theorem hostAccess_eq_next {a : HostAccess} {s t : State} (h : hostAccess a s = .next t) :
    (∃ off bytes v, a = .csrWrite off bytes v ∧ t = csrWrite off bytes v s) ∨
      (∃ addr v, a = .memWrite addr v ∧ t = hostWriteByte addr v s) ∨ ∃ v, t = hostReturns v s := by
  cases a with
  | csrRead off bytes => cases h; exact .inr (.inr ⟨_, rfl⟩)
  | csrWrite off bytes v => cases h; exact .inl ⟨off, bytes, v, rfl, rfl⟩
  | memRead addr =>
    rcases Nat.lt_or_ge addr s.params.memSize with hin | hout
    · cases (step_memRead hin).symm.trans h; exact .inr (.inr ⟨_, rfl⟩)
    · cases (step_memRead_outside hout).symm.trans h
  | memWrite addr v =>
    rcases Nat.lt_or_ge addr s.params.memSize with hin | hout
    · cases (step_memWrite hin v).symm.trans h; exact .inr (.inl ⟨addr, v, rfl, rfl⟩)
    · cases (step_memWrite_outside hout v).symm.trans h

/-! ### A CSR write -/

/-- A CMD write to a busy block is dropped (R33, R314). -/
theorem writeCmd_busy {s : State} (h : s.busy = true) (w : Word) : writeCmd w s = { s with ovr := true } := if_pos h

theorem step_csrw_cmd_busy {s : State} (h : s.busy = true) (w : Word) :
    step (withMove (csrw 0x008 w) s) = .next { s with ovr := true } :=
  congrArg Host.Outcome.next (writeCmd_busy h w)

/-- While a command runs, a CSR write reaches DONE, OVR, IEN and the argument CSRs alone (R342). -/
theorem csrWrite_busy_frame {s : State} (h : s.busy = true) (off : BitVec 12) (bytes : Nat) (v : Word) :
    csrWrite off bytes v s = { s with
      done := (csrWrite off bytes v s).done, ovr := (csrWrite off bytes v s).ovr,
      doneIe := (csrWrite off bytes v s).doneIe, csr := (csrWrite off bytes v s).csr } := by
  rcases csrWrite_cases off bytes v s with ⟨-, -, e⟩ | ⟨-, -, e⟩ | ⟨-, -, e⟩ | e | e <;> rw [e]
  · rw [writeCmd_busy h]
  · rfl
  · rfl

theorem busy_csrWrite {s : State} (h : s.busy = true) (off : BitVec 12) (bytes : Nat) (v : Word) :
    (csrWrite off bytes v s).busy = true := by
  rw [csrWrite_busy_frame h]; exact h

/-- No CSR write sets DONE (R35, R305). -/
theorem done_csrWrite {off : BitVec 12} {bytes : Nat} {v : Word} {s : State}
    (h : (csrWrite off bytes v s).done = true) : s.done = true := by
  rcases csrWrite_cases off bytes v s with ⟨-, -, e⟩ | ⟨-, -, e⟩ | ⟨-, -, e⟩ | e | e <;> rw [e] at h
  · unfold writeCmd at h
    split at h
    · exact h
    · cases h
  · exact (Bool.and_eq_true_iff.mp h).1
  all_goals exact h

/-- Only a 1 in bit 3 of STATUS clears OVR (R35). -/
theorem ovr_csrWrite {off : BitVec 12} {bytes : Nat} {v : Word} {s : State} (hs : s.ovr = true)
    (h : (csrWrite off bytes v s).ovr = false) : off = 0x00C#12 ∧ bytes = 4 ∧ v.getLsbD 3 = true := by
  rcases csrWrite_cases off bytes v s with ⟨-, -, e⟩ | ⟨ho, hb, e⟩ | ⟨-, -, e⟩ | e | e <;> rw [e] at h
  case inr.inl => exact ⟨ho, hb, by simpa [writeStatus, hs] using h⟩
  case inl =>
    unfold writeCmd at h
    split at h
    · cases h
    · exact absurd (hs.symm.trans h) (by decide)
  all_goals exact absurd (hs.symm.trans h) (by decide)

/-- Only a 1 in bit 0 of IEN sets DONE_IE (R36). -/
theorem doneIe_csrWrite {off : BitVec 12} {bytes : Nat} {v : Word} {s : State} (hs : s.doneIe = false)
    (h : (csrWrite off bytes v s).doneIe = true) : off = 0x010#12 ∧ bytes = 4 ∧ v.getLsbD 0 = true := by
  rcases csrWrite_cases off bytes v s with ⟨-, -, e⟩ | ⟨-, -, e⟩ | ⟨ho, hb, e⟩ | e | e <;> rw [e] at h
  case inr.inr.inl => exact ⟨ho, hb, h⟩
  case inl =>
    unfold writeCmd at h
    split at h
    all_goals exact absurd (hs.symm.trans h) (by decide)
  all_goals exact absurd (hs.symm.trans h) (by decide)

/-! ### The sink and the core -/

/-- An answer of the sink reaches the progress counters, the sequencer and the end of the command alone (R266, R268). -/
theorem sinkAnswer_frame {a : Answer} {s t : State} (h : sinkAnswer a s = .next t) :
    t = { s with
      busy := t.busy, done := t.done, err := t.err, errCode := t.errCode, mbCount := t.mbCount, blkCount := t.blkCount,
      seq := t.seq } := by
  rcases sinkAnswer_cases a s with ⟨q, -, -, -, ⟨-, e⟩ | ⟨-, e⟩⟩ | ⟨-, e⟩ <;> rw [e] at h <;> cases h
  · rcases eventAccepted_cases q s with ⟨-, e⟩ | ⟨-, e⟩ | ⟨-, -, q', e⟩ <;> simp only [e, complete]
  · rfl

/-- OVR and IEN are the host's and reset's alone. -/
theorem step_keeps_ovr_doneIe {s t : State} (h : step s = .next t) :
    (t.ovr = s.ovr ∧ t.doneIe = s.doneIe) ∨
      (∃ off bytes v rest, s.moves = .host (.csrWrite off bytes v) :: rest ∧
        t = csrWrite off bytes v { s with moves := rest }) ∨
      ∃ rest, s.moves = .reset :: rest ∧ t = resetInput { s with moves := rest } := by
  obtain ⟨m, rest, hm, hmoves⟩ := exists_takeMove h
  cases m with
  | core =>
    obtain ⟨-, hovr, hie, -⟩ := coreStep_frame hm
    exact .inl ⟨hovr, hie⟩
  | sink a =>
    rw [sinkAnswer_frame hm]
    exact .inl ⟨rfl, rfl⟩
  | reset =>
    cases hm
    exact .inr (.inr ⟨rest, by simpa using hmoves, rfl⟩)
  | host a =>
    rcases hostAccess_eq_next hm with ⟨off, bytes, v, rfl, rfl⟩ | ⟨_, _, -, rfl⟩ | ⟨_, rfl⟩
    · exact .inr (.inl ⟨off, bytes, v, rest, by simpa using hmoves, rfl⟩)
    · exact .inl ⟨rfl, rfl⟩
    · exact .inl ⟨rfl, rfl⟩

/-- Settles O8: a write that clears OVR is one to STATUS with bit 3 set. -/
theorem ovrStaysUntilCleared : Obligations.OvrStaysUntilCleared := by
  refine ⟨fun s w hb => step_csrw_cmd_busy hb w, fun s t h hs ht => ?_⟩
  rcases step_keeps_ovr_doneIe h with ⟨hovr, -⟩ | ⟨off, bytes, v, rest, hm, rfl⟩ | ⟨rest, hm, -⟩
  · exact absurd ((hs.symm.trans hovr.symm).trans ht) (by decide)
  · obtain ⟨rfl, rfl, hv⟩ := ovr_csrWrite (s := { s with moves := rest }) hs ht
    exact .inl ⟨v, rest, hm, hv⟩
  · exact .inr ⟨rest, hm⟩

/-! ### The end of a command -/

/-- A command either raises an error its check found, or its first step leaves ERRCODE alone. -/
theorem exec_errCode {i : Instr} {s t : State} (h : exec i s = .next t) :
    (∃ c, checkOf i s = some c ∧ t = raiseError c s) ∨ t.errCode = s.errCode := by
  rcases exec_cases i s with ⟨c, hc, e⟩ | ⟨-, -, e⟩ | ⟨-, -, e⟩ <;> rw [e] at h <;> cases h
  · exact .inl ⟨c, hc, rfl⟩
  · rw [effectOf_frame]; exact .inr rfl
  · exact .inr rfl

/-- Settles O9: only the error end of a failed check records a code. -/
theorem failedCheckChangesOnlyStatus : Obligations.FailedCheckChangesOnlyStatus := by
  intro i s t h hs ht
  rcases exec_errCode h with ⟨c, -, rfl⟩ | hsame
  · rfl
  · exact absurd (hsame.trans hs) ht

/-- Settles O10: a code recorded is one the command's check can find. -/
theorem commandsEndWithTheirOwnErrors : Obligations.CommandsEndWithTheirOwnErrors := by
  intro i s t h hs
  rcases exec_errCode h with ⟨c, hc, rfl⟩ | hsame
  · exact .inr (checkOf_mem hc)
  · exact .inl (hsame.trans hs)

/-- `t` is `s` with its command ended (R309, R310): DONE is set, and an error has its code. -/
structure EndsCommand (s t : State) : Prop where
  wasBusy : s.busy = true
  idle : t.busy = false
  done : t.done = true
  noPass : t.seq = none
  code : (t.err = true ∧ t.errCode ≠ .noError) ∨ (t.err = s.err ∧ t.errCode = s.errCode)

theorem EndsCommand.of_moves {s t : State} {rest : List Move} (h : EndsCommand { s with moves := rest } t) :
    EndsCommand s t := { h with }

theorem endsCommand_raiseError {s : State} (hb : s.busy = true) {c : ErrorCode} (hc : c ≠ .noError) :
    EndsCommand s (raiseError c s) := ⟨hb, rfl, rfl, rfl, .inl ⟨rfl, hc⟩⟩

theorem endsCommand_complete {s : State} (hb : s.busy = true) : EndsCommand s (complete s) :=
  ⟨hb, rfl, rfl, rfl, .inr ⟨rfl, rfl⟩⟩

theorem endsCommand_effectOf {s : State} (hb : s.busy = true) (i : Instr) :
    EndsCommand s (complete (effectOf i s)) := by
  rw [effectOf_frame]
  exact ⟨hb, rfl, rfl, rfl, .inr ⟨rfl, rfl⟩⟩

theorem exec_endsCommand {i : Instr} {s t : State} (hb : s.busy = true) (h : exec i s = .next t) :
    EndsCommand s t ∨ (t.busy = s.busy ∧ t.done = s.done) := by
  rcases exec_cases i s with ⟨c, hc, e⟩ | ⟨-, -, e⟩ | ⟨-, -, e⟩ <;> rw [e] at h <;> cases h
  · exact .inl (endsCommand_raiseError hb (ne_noError (checkOf_mem hc)))
  · exact .inl (endsCommand_effectOf hb i)
  · exact .inr ⟨rfl, rfl⟩

theorem coreStep_endsCommand {s t : State} (h : coreStep s = .next t) :
    EndsCommand s t ∨ (t.busy = s.busy ∧ t.done = s.done) := by
  rcases coreStep_cases s with ⟨-, e⟩ | ⟨-, -, e⟩ | ⟨hb, -, i, -, e⟩ | ⟨hb, -, -, e⟩ <;> rw [e] at h
  · cases h; exact .inr ⟨rfl, rfl⟩
  · cases h; rw [passStep_frame]; exact .inr ⟨rfl, rfl⟩
  · exact exec_endsCommand hb h
  · cases h; exact .inl (endsCommand_raiseError hb (by decide))

theorem sinkAnswer_endsCommand {a : Answer} {s t : State} (hpass : ∀ q, s.seq = some q → s.busy = true)
    (h : sinkAnswer a s = .next t) : EndsCommand s t ∨ (t.busy = s.busy ∧ t.done = s.done) := by
  rcases sinkAnswer_cases a s with ⟨q, -, hq, -, ⟨-, e⟩ | ⟨-, e⟩⟩ | ⟨-, e⟩ <;> rw [e] at h <;> cases h
  · rcases eventAccepted_cases q s with ⟨-, e⟩ | ⟨-, e⟩ | ⟨-, -, q', e⟩ <;> rw [e]
    · exact .inl (endsCommand_complete (hpass q hq))
    · exact .inr ⟨rfl, rfl⟩
    · exact .inr ⟨rfl, rfl⟩
  · exact .inl (endsCommand_raiseError (hpass q hq) (by decide))

/-- A step ends the running command, or sets no DONE and leaves a busy block busy, reset apart. -/
theorem step_endsCommand {s t : State} (hpass : ∀ q, s.seq = some q → s.busy = true) (h : step s = .next t) :
    EndsCommand s t ∨
      ((t.done = true → s.done = true) ∧ (s.busy = true → t.busy = true ∨ ∃ rest, s.moves = .reset :: rest)) := by
  obtain ⟨m, rest, hm, hmoves⟩ := exists_takeMove h
  cases m with
  | core =>
    exact (coreStep_endsCommand hm).imp EndsCommand.of_moves
      fun ⟨hb, hd⟩ => ⟨hd.symm.trans, fun hs => .inl (hb.trans hs)⟩
  | sink a =>
    exact (sinkAnswer_endsCommand (s := { s with moves := rest }) hpass hm).imp EndsCommand.of_moves
      fun ⟨hb, hd⟩ => ⟨hd.symm.trans, fun hs => .inl (hb.trans hs)⟩
  | reset =>
    cases hm
    exact .inr ⟨nofun, fun _ => .inr ⟨rest, by simpa using hmoves⟩⟩
  | host a =>
    rcases hostAccess_eq_next hm with ⟨off, bytes, v, rfl, rfl⟩ | ⟨_, _, -, rfl⟩ | ⟨_, rfl⟩
    · exact .inr ⟨done_csrWrite, fun hb => .inl (busy_csrWrite (s := { s with moves := rest }) hb off bytes v)⟩
    · exact .inr ⟨id, .inl⟩
    · exact .inr ⟨id, .inl⟩

/-- Settles O11: with no error raised, ERR and ERRCODE are still those of a running command, which has none. -/
theorem endOfCommandIsReported : Obligations.EndOfCommandIsReported := by
  intro s t ⟨hbusy, herr⟩ h hs ht hreset
  obtain ⟨-, hcode, -⟩ := hbusy hs
  rcases step_endsCommand (fun _ _ => hs) h with hend | ⟨-, hstays⟩
  · refine ⟨hend.done, hend.noPass, hend.code.imp_right fun ⟨he, hc⟩ => ⟨he.trans ?_, hc.trans hcode⟩⟩
    exact Bool.eq_false_iff.mpr fun h => herr.mp h hcode
  · rcases hstays hs with hb | hr
    · exact absurd (hb.symm.trans ht) (by decide)
    · exact absurd hr hreset

/-- DONE_IE rises only as the host writes a 1 to bit 0 of IEN (R36). -/
theorem step_doneIe_rises {s t : State} (h : step s = .next t) (hs : s.doneIe = false) (ht : t.doneIe = true) :
    ∃ v rest, s.moves = csrw 0x010 v :: rest ∧ v.getLsbD 0 = true := by
  rcases step_keeps_ovr_doneIe h with ⟨-, hie⟩ | ⟨off, bytes, v, rest, hm, rfl⟩ | ⟨rest, -, rfl⟩
  · exact absurd ((hs.symm.trans hie.symm).trans ht) (by decide)
  · obtain ⟨rfl, rfl, hv⟩ := doneIe_csrWrite (s := { s with moves := rest }) hs ht
    exact ⟨v, rest, hm, hv⟩
  · cases ht

/-- Settles O17: IRQ rises with DONE, which only the end of a command sets, or with DONE_IE. -/
theorem interruptRisesOnlyAtCompletion : Obligations.InterruptRisesOnlyAtCompletion := by
  intro s t hpass h hs ht
  obtain ⟨hdone, hie⟩ : t.done = true ∧ t.doneIe = true := Bool.and_eq_true_iff.mp ht
  rcases step_endsCommand (fun q hq => (hpass q hq).1) h with hend | ⟨hkeeps, -⟩
  · exact .inl ⟨hend.wasBusy, hend.idle, hdone⟩
  · have hsie : s.doneIe = false := by simpa [irq, hkeeps hdone] using hs
    exact .inr ⟨hkeeps hdone, step_doneIe_rises h hsie hie⟩

/-! ### Acceptance, and the core's step of an accepted word -/

/-- Settles O5. -/
theorem stepRunsTheAcceptedCommand : Obligations.StepRunsTheAcceptedCommand := by
  refine fun s hb hq => ⟨fun i hi => ⟨coreStep_run hb hq hi, fun hm => ?_⟩, fun e he => coreStep_illegal hb hq he⟩
  rw [step_nil hm, coreStep_run hb hq hi]

/-- Settles O7: the state accepted is that of `accept`, field by field. -/
theorem cmdWriteIsAcceptedOrDropped : Obligations.CmdWriteIsAcceptedOrDropped := fun s w =>
  ⟨fun hidle => ⟨accept w s, step_csrw_cmd_idle hidle w, rfl, rfl⟩, fun hbusy => step_csrw_cmd_busy hbusy w, rfl,
    fun _ => rfl⟩

/-- Settles O12: by the access; a CSR write by its frame while busy. -/
theorem hostAccessNeverStopsACommand : Obligations.HostAccessNeverStopsACommand := by
  intro s t a hb (h : hostAccess a s = .next t)
  rcases hostAccess_eq_next h with ⟨off, bytes, v, rfl, rfl⟩ | ⟨addr, v, rfl, rfl⟩ | ⟨v, rfl⟩
  · rw [csrWrite_busy_frame hb]
    exact ⟨hb, rfl, fun _ => ⟨rfl, rfl⟩⟩
  · exact ⟨hb, rfl, fun hne => absurd rfl (hne addr v)⟩
  · exact ⟨hb, rfl, fun _ => ⟨rfl, rfl⟩⟩

end Sys2Proof.Machine

/-! Reset (R340 to R342): what it leaves of data memory, for a command it aborts and when no command writes. -/

namespace Sys2Proof.Machine

theorem memoryAfter_of_coreStep {s t : State} (h : coreStep s = .next t) : memoryAfter s = t.mem := by
  rw [memoryAfter, h]

/-- ENCODE's first step reads data memory and writes none, whether it ends with an error or begins the pass (R252). -/
theorem exec_encode_mem {s t : State} (h : exec .encode s = .next t) : t.mem = s.mem := by
  rcases exec_encode s with ⟨c, -, e⟩ | ⟨-, e⟩ <;> rw [e] at h <;> cases h <;> simp

/-- Idle, in a pass or at ENCODE, the core's next step leaves data memory as it is. -/
theorem memoryAfter_eq_mem {s : State}
    (h : s.busy = false ∨ s.seq ≠ none ∨ decode (commandWord s) = .ok .encode) : memoryAfter s = s.mem := by
  obtain ⟨t, ht⟩ := exists_coreStep_eq_next s
  rw [memoryAfter_of_coreStep ht]
  rcases coreStep_cases s with ⟨-, e⟩ | ⟨-, -, e⟩ | ⟨hbusy, hseq, i, hi, e⟩ | ⟨-, -, -, e⟩ <;> rw [e] at ht
  · cases ht; rfl
  · cases ht; rw [passStep_frame]
  · obtain rfl : i = .encode := by simpa [hbusy, hseq, hi] using h
    exact exec_encode_mem ht
  · cases ht; rfl

/-- An aborted command leaves each byte its old value or the one the command would have written (R341). -/
theorem read_abortedMemory (s : State) (a : Nat) :
    Memory.read (abortedMemory s) a = Memory.read s.mem a ∨
      Memory.read (abortedMemory s) a = Memory.read (memoryAfter s) a := by
  unfold abortedMemory
  refine List.foldlRecOn _ _ (motive := fun m => Memory.read m a = Memory.read s.mem a ∨
    Memory.read m a = Memory.read (memoryAfter s) a) (.inl rfl) fun m hm c _ => ?_
  split
  · exact hm
  · by_cases hac : a = c.1
    · rw [hac, Memory.read_write_self]
      exact oldOrNew_cases .abort s c.1
    · rw [Memory.read_write_ne m _ hac]
      exact hm

/-- Aborting a command that would write nothing leaves data memory as it is (R341, R342). -/
theorem abortedMemory_eq_mem {s : State} (h : memoryAfter s = s.mem) : abortedMemory s = s.mem := by
  unfold abortedMemory
  refine List.foldlRecOn _ _ (motive := (· = s.mem)) rfl fun m hm c _ => ?_
  rw [if_pos (oldOrNew_of_read_eq .abort (by rw [h])), hm]

/-- Reset leaves data memory as aborting the running command does; with none running, nothing would be written (R342). -/
theorem resetInput_mem (s : State) : (resetInput s).mem = abortedMemory s := by
  cases hb : s.busy with
  | false => exact (if_neg (by simp [hb])).trans (abortedMemory_eq_mem (memoryAfter_idle hb)).symm
  | true => exact if_pos hb

/-- Settles O57: the registers by the definition of reset, and data memory by what an aborted command leaves. -/
theorem resetAbortsTheCommand : Obligations.ResetAbortsTheCommand := by
  refine fun s => ⟨resetInput s, step_withMove .reset s, rfl, fun a => ?_, fun h => ?_⟩
  · rw [resetInput_mem]
    exact read_abortedMemory s a
  · rw [resetInput_mem]
    exact abortedMemory_eq_mem (memoryAfter_eq_mem h)

end Sys2Proof.Machine
